-- ==== Sys2Proof/Word.lean ====
section
/-! DEFINITION. The word types of CORE (00_scope.md R7) and the names of its parts: the two slots (R16), the three
byte spaces (R35), the direction of a mode operation (R104) and the four-word state of the cipher (R72). -/

namespace Sys2Proof

/-- A byte: 8 bits (R7). -/
abbrev Byte := BitVec 8

/-- A word: 32 bits (R7). -/
abbrev Word := BitVec 32

/-- The two key-schedule stores: `D` holds C_d, `T` holds C_t (R16, R105). -/
inductive Slot where
  | D
  | T
deriving DecidableEq, Repr

/-- The three byte-addressed spaces of R35: `TWK`, `IBUF`, `OBUF`. -/
inductive Space where
  | twk
  | ibuf
  | obuf
deriving DecidableEq, Repr

/-- The direction of a mode operation (R104). -/
inductive Dir where
  | enc
  | dec
deriving DecidableEq, Repr

/-- Four words `(X0, X1, X2, X3)`: the working state of the cipher (R72) and of the expander (R89). -/
structure Quad where
  x0 : Word
  x1 : Word
  x2 : Word
  x3 : Word
deriving DecidableEq, Repr

end Sys2Proof
end

