-- ==== Sys2Proof/Syntax.lean ====
section
/-! DEFINITION. The commands of CORE (30_encoding.md R53): one constructor per row of spec/opcode_table.json. -/

namespace Sys2Proof

/-- A command with its operands. `len` is the operand length in bytes, CORE's only immediate (R57); it is a count, so a
natural number, and WellFormed.lean bounds it to the 24 bits of its field (R54). -/
inductive Instr where
  /-- CNEW s, len (R95). -/
  | cnew (s : Slot) (len : Nat)
  /-- CENC s, len (R80). -/
  | cenc (s : Slot) (len : Nat)
  /-- CDEC s, len (R82). -/
  | cdec (s : Slot) (len : Nat)
  /-- MNEW len (R115). -/
  | mnew (len : Nat)
  /-- MENC len (R117). -/
  | menc (len : Nat)
  /-- MDEC len (R119). -/
  | mdec (len : Nat)
  /-- CDROP s (R97). -/
  | cdrop (s : Slot)
deriving DecidableEq, Repr

/-- The mnemonic of R53. -/
def Instr.mnemonic : Instr → String
  | .cnew _ _ => "CNEW"
  | .cenc _ _ => "CENC"
  | .cdec _ _ => "CDEC"
  | .mnew _ => "MNEW"
  | .menc _ => "MENC"
  | .mdec _ => "MDEC"
  | .cdrop _ => "CDROP"

/-- The value of the command word's `len` field: CDROP has none, its field is 0 (R57). -/
def Instr.len : Instr → Nat
  | .cnew _ n => n
  | .cenc _ n => n
  | .cdec _ n => n
  | .mnew n => n
  | .menc n => n
  | .mdec n => n
  | .cdrop _ => 0

/-- The slot the command word's `slot` field names: the mode commands have `slot = 0` (R56). -/
def Instr.slot : Instr → Slot
  | .cnew s _ => s
  | .cenc s _ => s
  | .cdec s _ => s
  | .mnew _ => .D
  | .menc _ => .D
  | .mdec _ => .D
  | .cdrop s => s

end Sys2Proof
end

