-- ==== Sys2Proof/WellFormed.lean ====
section
/-! DEFINITION. Which terms of `Instr` a command word can encode: the `len` field has 24 bits (30_encoding.md R54). -/

namespace Sys2Proof

/-- `len` is an unsigned number 0..16777215 (R54). The slot is a `Slot`, so it needs no check. -/
abbrev Instr.WellFormed (i : Instr) : Prop := i.len < 16777216

end Sys2Proof
end

