-- ==== Sys2Proof/Decode.lean ====
section
/-! DEFINITION. Decoding a 32-bit command word (30_encoding.md R54 to R61), the encoder written from the same tables, and
the opcode map of R58. -/

namespace Sys2Proof

/-! ### The fields of format C (R54) -/

/-- `op`, bits 3:0. -/
def opField (w : Word) : BitVec 4 := w.extractLsb' 0 4

/-- `slot`, bit 4. -/
def slotField (w : Word) : BitVec 1 := w.extractLsb' 4 1

/-- `rsv`, bits 7:5. -/
def rsvField (w : Word) : BitVec 3 := w.extractLsb' 5 3

/-- `len`, bits 31:8. -/
def lenField (w : Word) : BitVec 24 := w.extractLsb' 8 24

/-- `slot` 0 stands for `D`, 1 for `T` (R56, R61). -/
def slotOfBit (b : BitVec 1) : Slot := if b = 0 then .D else .T

/-- The bit that stands for a slot (R56). -/
def bitOfSlot : Slot → BitVec 1
  | .D => 0
  | .T => 1

/-! ### Decoding -/

/-- Why a word is illegal (R59). All of them raise the one error IllegalCommand (R132). -/
inductive Illegal where
  /-- `rsv != 000`. -/
  | reservedBits
  /-- `op = 0x0` or `op >= 0x8`. -/
  | unassignedOp
  /-- MNEW, MENC or MDEC with `slot = 1`. -/
  | slotNotZero
  /-- CDROP with `len != 0`. -/
  | lenNotZero
deriving DecidableEq, Repr

/-- A mode command: it needs `slot = 0` (R56). -/
def modeCommand (slot : BitVec 1) (i : Instr) : Except Illegal Instr :=
  if slot = 0 then .ok i else .error .slotNotZero

/-- The total decoding function of R61. -/
def decode (w : Word) : Except Illegal Instr :=
  let op := opField w
  let slot := slotField w
  let len := (lenField w).toNat
  if rsvField w ≠ 0 then .error .reservedBits
  else if op = 1 then .ok (.cnew (slotOfBit slot) len)
  else if op = 2 then .ok (.cenc (slotOfBit slot) len)
  else if op = 3 then .ok (.cdec (slotOfBit slot) len)
  else if op = 4 then modeCommand slot (.mnew len)
  else if op = 5 then modeCommand slot (.menc len)
  else if op = 6 then modeCommand slot (.mdec len)
  else if op = 7 then (if len = 0 then .ok (.cdrop (slotOfBit slot)) else .error .lenNotZero)
  else .error .unassignedOp

/-! ### Encoding -/

/-- The operation codes of R55. -/
def Instr.opcode : Instr → BitVec 4
  | .cnew _ _ => 1
  | .cenc _ _ => 2
  | .cdec _ _ => 3
  | .mnew _ => 4
  | .menc _ => 5
  | .mdec _ => 6
  | .cdrop _ => 7

/-- Format C of R54: `len` in bits 31:8, zeros in bits 7:5, `slot` in bit 4, `op` in bits 3:0. -/
def formatC (len : BitVec 24) (slot : BitVec 1) (op : BitVec 4) : Word :=
  (len.setWidth 32 <<< 8) ||| (slot.setWidth 32 <<< 4) ||| op.setWidth 32

/-- The command word of a well-formed command. -/
def encode (i : Instr) : Word := formatC (BitVec.ofNat 24 i.len) (bitOfSlot i.slot) i.opcode

/-! ### The opcode map (R58) -/

/-- One row of R58: a word `w` decodes to the row when `w &&& mask = pattern`. -/
structure OpcodeRow where
  mnemonic : String
  mask : Word
  pattern : Word
deriving DecidableEq, Repr

/-- `w` matches the row (R58). -/
abbrev OpcodeRow.Matches (r : OpcodeRow) (w : Word) : Prop := w &&& r.mask = r.pattern

/-- The seven rows of R58. -/
def opcodeMap : List OpcodeRow :=
  [⟨"CNEW", 0x000000EF, 0x00000001⟩,
   ⟨"CENC", 0x000000EF, 0x00000002⟩,
   ⟨"CDEC", 0x000000EF, 0x00000003⟩,
   ⟨"MNEW", 0x000000FF, 0x00000004⟩,
   ⟨"MENC", 0x000000FF, 0x00000005⟩,
   ⟨"MDEC", 0x000000FF, 0x00000006⟩,
   ⟨"CDROP", 0xFFFFFFEF, 0x00000007⟩]

/-! ### The host's question -/

/-- The command word whose bits are `w`, of which the table gives `nbits`: the bits above are 0. -/
def tableWord (nbits w : Nat) : Word := BitVec.ofNat 32 (w % 2 ^ nbits)

/-- What the decoder reads from a row's word; `none` where it refuses. -/
def decodeTableWord (nbits w : Nat) : Option Instr :=
  match decode (tableWord nbits w) with
  | .ok i => some i
  | .error _ => none

end Sys2Proof
end

