-- ==== Sys2Proof/Config.lean ====
section
/-! DEFINITION. What is fixed for one machine: the form of the constant record (00_scope.md R6), the open parameter
MAXLEN (R5), and the free values of reset (10_state.md R30). A free value has no body: nothing can evaluate it. -/

namespace Sys2Proof

/-- The configuration record `CipherConsts = {SBOX, FK, CK, KROT}` of R6. `sbox` holds the sixteen rows of R67's table,
sixteen bytes each; its one value is `Machine.cipherConsts`. -/
structure CipherConsts where
  sbox : List (List Byte)
  fk : Quad
  ck : List Word
  krot : List Nat
deriving DecidableEq, Repr

/-- How far MAXLEN lies above its least value 32 (R5). OPEN: log entry 6 (DESIGN CHOICE). -/
opaque Config.maxLenAbove : Fin 16777184

/-- MAXLEN of the machine at power-on: every number `32 <= MAXLEN <= 16777215` and no other is a possible value (R5).
Log entry 6. -/
def Config.maxLen : Nat := Config.maxLenAbove.val + 32

/-- The byte an offset that nothing has written since power-on holds, after `resets` resets (R30, V1): an arbitrary byte,
fixed until it is written. Log entry 7 (DESIGN CHOICE). -/
opaque Config.resetByte (resets : Nat) (sp : Space) (off : Nat) : Byte

/-- The byte that a reset leaves at an offset that held `old` (R146: unspecified, and not promised to be erased, so it may
depend on `old`). Log entry 9 (DESIGN CHOICE). -/
opaque Config.resetOver (resets : Nat) (sp : Space) (off : Nat) (old : Byte) : Byte

/-- The subkey that a reset leaves in a store that held `old` (R30, R146, V2). Log entry 8 (DESIGN CHOICE). -/
opaque Config.resetSubkey (resets : Nat) (s : Slot) (i : Nat) (old : Word) : Word

end Sys2Proof
end

