-- ==== Sys2Proof/Machine/Bits.lean ====
section
/-! DEFINITION. Byte strings and words: the slices of 00_scope.md R7, the operators of R9 and the big-endian conversions of
R10 (20_memory.md R37). A byte string is a list of bytes, the byte at the lowest offset first. -/

namespace Sys2Proof.Machine

/-- `byte0(w) = w[31:24]`, the byte that comes first in memory (R7). -/
def byte0 (w : Word) : Byte := w.extractLsb' 24 8

/-- `byte1(w) = w[23:16]` (R7). -/
def byte1 (w : Word) : Byte := w.extractLsb' 16 8

/-- `byte2(w) = w[15:8]` (R7). -/
def byte2 (w : Word) : Byte := w.extractLsb' 8 8

/-- `byte3(w) = w[7:0]` (R7). -/
def byte3 (w : Word) : Byte := w.extractLsb' 0 8

/-- `(b0 << 24) | (b1 << 16) | (b2 << 8) | b3` (R10). -/
def ofBytes (b0 b1 b2 b3 : Byte) : Word :=
  (b0.setWidth 32 <<< 24) ||| (b1.setWidth 32 <<< 16) ||| (b2.setWidth 32 <<< 8) ||| b3.setWidth 32

/-- `rotl(w, n)` for `0 < n < 32` (R9). -/
def rotl (w : Word) (n : Nat) : Word := (w <<< n) ||| (w >>> (32 - n))

/-- `a ^ b` of two byte strings of equal length, byte by byte (R9). -/
def xorBytes (a b : List Byte) : List Byte := List.zipWith (· ^^^ ·) a b

/-- Word `Wk` of a block: bytes `4k .. 4k+3` (R10). Blocks have 16 bytes; on a shorter list a byte that is not there counts
as 0, and no command reads such a list (log entry 12). -/
def wordAt (b : List Byte) (k : Nat) : Word :=
  ofBytes (b.getD (4 * k) 0) (b.getD (4 * k + 1) 0) (b.getD (4 * k + 2) 0) (b.getD (4 * k + 3) 0)

/-- `words(b) = (W0, W1, W2, W3)` (R10). -/
def words (b : List Byte) : Quad := ⟨wordAt b 0, wordAt b 1, wordAt b 2, wordAt b 3⟩

/-- The four bytes of a word, most significant first. -/
def bytesOfWord (w : Word) : List Byte := [byte0 w, byte1 w, byte2 w, byte3 w]

/-- `bytes(W0, W1, W2, W3)`, the inverse of `words` (R10). -/
def bytes (q : Quad) : List Byte := bytesOfWord q.x0 ++ bytesOfWord q.x1 ++ bytesOfWord q.x2 ++ bytesOfWord q.x3

end Sys2Proof.Machine
end

