-- ==== Sys2Proof/Machine/Cipher.lean ====
section
/-! DEFINITION. The datapath of the block cipher (40_sbox_round.md): substitution, linear transform, round, thirty-two rounds,
single-block encryption and decryption. -/

namespace Sys2Proof.Machine

/-- `tau(A)`: the four byte lanes through the S-box (R69). -/
def tau (a : Word) : Word := ofBytes (sbox (byte0 a)) (sbox (byte1 a)) (sbox (byte2 a)) (sbox (byte3 a))

/-- `L(B)` of the encryption round (R70). -/
def lRound (b : Word) : Word := b ^^^ rotl b 2 ^^^ rotl b 10 ^^^ rotl b 18 ^^^ rotl b 24

/-- `T(A) = L(tau(A))` (R71). -/
def tRound (a : Word) : Word := lRound (tau a)

/-- `F(rk, (X0, X1, X2, X3))`: one round (R72). -/
def roundF (rk : Word) (x : Quad) : Quad :=
  ⟨x.x1, x.x2, x.x3, x.x0 ^^^ tRound (x.x1 ^^^ x.x2 ^^^ x.x3 ^^^ rk)⟩

/-- `Rev(a, b, c, d) = (d, c, b, a)` (R73). -/
def rev (x : Quad) : Quad := ⟨x.x3, x.x2, x.x1, x.x0⟩

/-- The rounds with the subkeys `k` in the order given (R74). -/
def rounds (k : List Word) (x : Quad) : Quad := k.foldl (fun y rk => roundF rk y) x

/-- `Crypt(k, B)`: big-endian load, the rounds, reversed word order, big-endian store (R74). -/
def crypt (k : List Word) (b : List Byte) : List Byte := bytes (rev (rounds k (words b)))

/-- `Enc(s, B)` with the schedule `rk` of the slot: subkeys in ascending order (R75). -/
def encBlock (rk : Vector Word 32) (b : List Byte) : List Byte := crypt rk.toList b

/-- `Dec(s, B)`: the same, subkeys in descending order (R76). -/
def decBlock (rk : Vector Word 32) (b : List Byte) : List Byte := crypt rk.toList.reverse b

end Sys2Proof.Machine
end

