-- ==== Sys2Proof/Machine/State.lean ====
section
/-! DEFINITION. The state of CORE (10_state.md R13), the host's moves (70_reset_and_hazards.md R161), the ways a step can
stop, and the state after reset (R30, R145). -/

namespace Sys2Proof.Machine

/-- The values of `ERR` (60_exceptions.md R125): exactly seven (V6), so codes 7 to 15 cannot be held. Log entry 11. -/
inductive ErrCode where
  | none
  | invalidKeyLength
  | inputTooShort
  | invalidBlockLength
  | illegalCommand
  | noKey
  | inputTooLong
deriving DecidableEq, Repr

/-- One byte buffer: the (offset, byte) cells written since power-on, offsets strictly rising (log entry 10). An offset
that is not listed holds its reset draw (R30, log entry 7). -/
abbrev Memory := List Host.Cell

/-- The moves of R161: the host's accesses (R36) and the platform's reset (R145). -/
inductive HostMove where
  /-- Write one byte of TWK, IBUF or OBUF. -/
  | writeByte (sp : Space) (off : Nat) (b : Byte)
  /-- Read one byte of TWK, IBUF or OBUF. -/
  | readByte (sp : Space) (off : Nat)
  /-- Write one whole control register by number (R22): 0 is CMD. -/
  | writeCsr (n : Nat) (w : Word)
  /-- Read one whole control register by number. -/
  | readCsr (n : Nat)
  /-- Reset (R145). -/
  | reset
deriving DecidableEq, Repr

/-- What a read gives the host (R36). -/
inductive Answer where
  | byte (b : Byte)
  | word (w : Word)
deriving DecidableEq, Repr

/-- The whole state: R13's table, the parameter MAXLEN (R5), and the model's own fields `resets`, `moves`, `answers`. -/
structure State where
  /-- `RK[D]` (R16). -/
  rkD : Vector Word 32
  /-- `RK[T]` (R16). -/
  rkT : Vector Word 32
  /-- `RKV[D]` (R17). -/
  rkvD : Bool
  /-- `RKV[T]` (R17). -/
  rkvT : Bool
  /-- `TWK` (R21). -/
  twk : Memory
  /-- `IBUF` (R20). -/
  ibuf : Memory
  /-- `OBUF` (R20). -/
  obuf : Memory
  /-- `ERR` (R26). -/
  err : ErrCode
  /-- `OLEN` (R25). -/
  olen : BitVec 24
  /-- MAXLEN (R5): no move changes it. Log entry 6. -/
  maxLen : Nat
  /-- How many resets the platform has applied: the counter of the free values (log entry 9). -/
  resets : Nat
  /-- The host's moves not yet made, oldest first (log entry 1). -/
  moves : List HostMove
  /-- What the host's reads returned, oldest first (log entry 3). -/
  answers : List Answer
deriving DecidableEq, Repr

/-- CORE never stops with a fault: every error is reported in `ERR` and the machine goes on (R126, R127). So there is no
constructor (log entry 5). -/
inductive Fault where
deriving DecidableEq, Repr

/-- Why there is no step. -/
inductive Refusal where
  /-- Raised by a command that has no meaning in the model yet: none is left. Safe. -/
  | notModelled (mnemonic : String)
  /-- Raised by a host access to a buffer offset that names no location (R43): not a step of CORE. Safe. -/
  | noSuchOffset (sp : Space) (off : Nat)
  /-- Raised by a host access to a control register number other than 0, 1, 2 (R44): not a step of CORE. Safe. -/
  | noSuchRegister (n : Nat)
deriving DecidableEq, Repr

/-- A subkey store after the `resets`-th reset, where it held `old` before (R30, R146). -/
def drawSubkeys (resets : Nat) (s : Slot) (old : Vector Word 32) : Vector Word 32 :=
  ⟨⟨(List.range 32).map fun i => Config.resetSubkey resets s i (old.toList.getD i 0)⟩, by simp⟩

/-- The machine right after power-on reset (R30, R145): both slots empty, `ERR = 0`, `OLEN = 0`; subkeys and buffers hold
draws; the host has made no move. -/
def State.reset : State where
  rkD := drawSubkeys 0 .D (Vector.replicate 32 0)
  rkT := drawSubkeys 0 .T (Vector.replicate 32 0)
  rkvD := false
  rkvT := false
  twk := []
  ibuf := []
  obuf := []
  err := .none
  olen := 0
  maxLen := Config.maxLen
  resets := 0
  moves := []
  answers := []

end Sys2Proof.Machine
end

