-- ==== Sys2Proof/Machine/Ops.lean ====
section
/-! DEFINITION. The named operations over the buffers and the subkey stores (00_scope.md R8), raising an error (60_exceptions.md
R127), completing a command, and reset (70_reset_and_hazards.md R145). CORE has no return from an error: nothing is saved and
the next command just runs (R136). -/

namespace Sys2Proof.Machine

/-! ### Buffers -/

/-- The byte written at `k` since power-on, if any. -/
def Memory.lookup : Memory → Nat → Option Byte
  | [], _ => .none
  | (a, b) :: m, k => if k = a then some b else Memory.lookup m k

/-- Write byte `v` at `k`, keeping the offsets rising. -/
def Memory.write : Memory → Nat → Byte → Memory
  | [], k, v => [(k, v)]
  | (a, b) :: m, k, v =>
    if k < a then (k, v) :: (a, b) :: m
    else if k = a then (k, v) :: m
    else (a, b) :: Memory.write m k v

/-- Write a byte string from offset `a` upward. -/
def Memory.writeBytes (m : Memory) (a : Nat) : List Byte → Memory
  | [] => m
  | b :: bs => Memory.writeBytes (Memory.write m a b) (a + 1) bs

/-- The canonical form of a buffer of `size` bytes: offsets strictly rising, every one inside the buffer. An unlisted offset
has no written byte and no entry says so, hence equal buffers are equal lists (log entry 10). -/
abbrev Memory.wf (size : Nat) (m : Memory) : Prop :=
  m.Pairwise (fun c d => c.1 < d.1) ∧ ∀ c ∈ m, c.1 < size

/-- The buffer that is a byte space (R35). -/
def State.mem (s : State) : Space → Memory
  | .twk => s.twk
  | .ibuf => s.ibuf
  | .obuf => s.obuf

/-- Replace a buffer. -/
def State.setMem (s : State) (sp : Space) (m : Memory) : State :=
  match sp with
  | .twk => { s with twk := m }
  | .ibuf => { s with ibuf := m }
  | .obuf => { s with obuf := m }

/-- How many bytes a space has (R35). -/
def State.size (s : State) : Space → Nat
  | .twk => 16
  | .ibuf => s.maxLen
  | .obuf => s.maxLen

/-- What an offset that nothing has written reads as: its draw of R30 (log entry 7). -/
def unlistedByte (resets : Nat) (sp : Space) (off : Nat) : Byte := Config.resetByte resets sp off

/-- The byte at offset `off` of a space. -/
def State.readByte (s : State) (sp : Space) (off : Nat) : Byte :=
  (Memory.lookup (s.mem sp) off).getD (unlistedByte s.resets sp off)

/-- Write one byte of a space. -/
def State.writeByte (s : State) (sp : Space) (off : Nat) (b : Byte) : State :=
  s.setMem sp (Memory.write (s.mem sp) off b)

/-- `MemRead(S, a, n)` (R8). -/
def memRead (s : State) (sp : Space) (a n : Nat) : List Byte := (List.range n).map fun k => s.readByte sp (a + k)

/-- `MemWrite(S, a, |v|, v)` (R8). -/
def memWrite (sp : Space) (a : Nat) (v : List Byte) (s : State) : State :=
  s.setMem sp (Memory.writeBytes (s.mem sp) a v)

/-! ### Subkey stores -/

/-- `RK[s]` (R16). -/
def State.rk (s : State) : Slot → Vector Word 32
  | .D => s.rkD
  | .T => s.rkT

/-- `RKV[s]` (R17). -/
def State.rkv (s : State) : Slot → Bool
  | .D => s.rkvD
  | .T => s.rkvT

/-- Write all of `RK[sl]` and `RKV[sl]`; the other slot is untouched (R18). -/
def State.setSlot (s : State) (sl : Slot) (k : Vector Word 32) (valid : Bool) : State :=
  match sl with
  | .D => { s with rkD := k, rkvD := valid }
  | .T => { s with rkT := k, rkvT := valid }

/-! ### The status and the model's own fields -/

/-- Write `ERR` and `OLEN`. -/
def State.setStatus (s : State) (e : ErrCode) (n : BitVec 24) : State := { s with err := e, olen := n }

/-- Replace the moves that are still to be made. -/
def State.setMoves (s : State) (ms : List HostMove) : State := { s with moves := ms }

/-- Give the host the value of a read. -/
def State.addAnswer (s : State) (a : Answer) : State := { s with answers := s.answers ++ [a] }

/-! ### How a command ends -/

/-- `raise E` (R127): `ERR <- code(E)`, `OLEN <- 0`, nothing else changes and the machine goes on. -/
def raise (e : ErrCode) (s : State) : Host.Outcome State Fault Refusal := .next (s.setStatus e 0)

/-- `OLEN <- n; ERR <- 0`, the end of a successful command (R25, R26). `OLEN` is 24 bits wide. -/
def finish (n : Nat) (s : State) : Host.Outcome State Fault Refusal := .next (s.setStatus .none (BitVec.ofNat 24 n))

/-! ### Reset -/

/-- A buffer after the `resets`-th reset: a written offset holds a byte that may depend on what it held (R146), an unlisted
offset is still unlisted and reads as that reset's draw (log entry 9). -/
def resetMemory (resets : Nat) (sp : Space) : Memory → Memory
  | [] => []
  | (a, b) :: m => (a, Config.resetOver resets sp a b) :: resetMemory resets sp m

/-- Reset between two moves (R145): the state becomes that of R30. MAXLEN is a property of the machine and stays; the host's
later moves and the answers it already has are not CORE's. -/
def applyReset (s : State) : State :=
  let n := s.resets + 1
  { s with
    rkD := drawSubkeys n .D s.rkD
    rkT := drawSubkeys n .T s.rkT
    rkvD := false
    rkvT := false
    twk := resetMemory n .twk s.twk
    ibuf := resetMemory n .ibuf s.ibuf
    obuf := resetMemory n .obuf s.obuf
    err := .none
    olen := 0
    resets := n }

end Sys2Proof.Machine
end

