-- ==== Sys2Proof/Machine/Operands.lean ====
section
/-! DEFINITION. The operand forms of the commands (10_state.md R20, R21, R29; 42_tweakable_mode.md R108): operands start at
offset 0 of IBUF, the tweak is TWK. -/

namespace Sys2Proof.Machine

/-- `IBUF[0..15]`: the block of CENC and CDEC, the key of CNEW, the data key of MNEW. -/
def firstOperand (s : State) : List Byte := memRead s .ibuf 0 16

/-- `IBUF[16..31]`: the tweak key of MNEW (R115). -/
def secondOperand (s : State) : List Byte := memRead s .ibuf 16 16

/-- `IBUF[0..len-1]`: the input of MENC and MDEC. -/
def modeInput (s : State) (len : Nat) : List Byte := memRead s .ibuf 0 len

/-- `TWK[0..15]`: the initial tweak. -/
def tweakOperand (s : State) : List Byte := memRead s .twk 0 16

/-- The first `n` input blocks `I_0, I_1, ...` of 16 bytes (R108). -/
def fullBlocks : Nat → List Byte → List (List Byte)
  | 0, _ => []
  | n + 1, input => input.take 16 :: fullBlocks n (input.drop 16)

end Sys2Proof.Machine
end

