-- ==== Sys2Proof/Machine/BlockCipher.lean ====
section
/-! DEFINITION. The commands CENC and CDEC (40_sbox_round.md R80, R82). The checks stand in the order of 60_exceptions.md
R135. -/

namespace Sys2Proof.Machine

/-- What CENC and CDEC share: the checks, the block `IBUF[0..15]`, the result at `OBUF[0..15]`. -/
def blockCommand (f : Vector Word 32 → List Byte → List Byte) (sl : Slot) (len : Nat) (s : State) :
    Host.Outcome State Fault Refusal :=
  if s.rkv sl = false then raise .noKey s
  else if len ≠ 16 then raise .invalidBlockLength s
  else finish 16 (memWrite .obuf 0 (f (s.rk sl) (firstOperand s)) s)

/-- CENC s, len (R80). -/
def execCenc (sl : Slot) (len : Nat) (s : State) : Host.Outcome State Fault Refusal := blockCommand encBlock sl len s

/-- CDEC s, len (R82). -/
def execCdec (sl : Slot) (len : Nat) (s : State) : Host.Outcome State Fault Refusal := blockCommand decBlock sl len s

end Sys2Proof.Machine
end

