-- ==== Sys2Proof/Machine/Expander.lean ====
section
/-! DEFINITION. The key-schedule expander (41_key_schedule.md R87 to R92). -/

namespace Sys2Proof.Machine

/-- `L'(B)`: `B` with its rotations by the set KROT (R87). -/
def lKey (b : Word) : Word := cipherConsts.krot.foldl (fun acc n => acc ^^^ rotl b n) b

/-- `T'(A) = L'(tau(A))` (R88). -/
def tKey (a : Word) : Word := lKey (tau a)

/-- `(MK[0], ..., MK[3])`: the key words with FK (R89). -/
def initialState (key : List Byte) : Quad :=
  let k := words key
  let f := cipherConsts.fk
  ⟨k.x0 ^^^ f.x0, k.x1 ^^^ f.x1, k.x2 ^^^ f.x2, k.x3 ^^^ f.x3⟩

/-- The expansion rounds from the window `(MK[i], ..., MK[i+3])` on, for the constants `CK[i], CK[i+1], ...` given: each new
subkey joins the window (R90). -/
def expandRounds : List Word → Quad → List Word
  | [], _ => []
  | ck :: cks, m =>
    let rk := m.x0 ^^^ tKey (m.x1 ^^^ m.x2 ^^^ m.x3 ^^^ ck)
    rk :: expandRounds cks ⟨m.x1, m.x2, m.x3, rk⟩

/-- One subkey for each round constant. -/
theorem expandRounds_length (ck : List Word) : ∀ m, (expandRounds ck m).length = ck.length := by
  induction ck with
  | nil => intro m; rfl
  | cons c cs ih => intro m; simp [expandRounds, ih]

/-- There are 32 round constants (R86). -/
theorem ck_length : cipherConsts.ck.length = 32 := by simp [cipherConsts, ckTable]

/-- `Expand(key)` (R92): the 32 subkeys. -/
def expand (key : List Byte) : Vector Word 32 :=
  ⟨⟨expandRounds cipherConsts.ck (initialState key)⟩, by simp [expandRounds_length, ck_length]⟩

end Sys2Proof.Machine
end

