-- ==== Sys2Proof/Machine/KeySchedule.lean ====
section
/-! DEFINITION. The commands CNEW and CDROP (41_key_schedule.md R95 to R97). -/

namespace Sys2Proof.Machine

/-- CNEW s, len (R95). A slot that holds a schedule is re-keyed (R96). -/
def execCnew (sl : Slot) (len : Nat) (s : State) : Host.Outcome State Fault Refusal :=
  if len ≠ 16 then raise .invalidKeyLength s
  else finish 0 (s.setSlot sl (expand (firstOperand s)) true)

/-- CDROP s (R97): the subkeys become zero and the slot is empty. -/
def execCdrop (sl : Slot) (s : State) : Host.Outcome State Fault Refusal :=
  finish 0 (s.setSlot sl (Vector.replicate 32 0) false)

end Sys2Proof.Machine
end

