-- ==== Sys2Proof/Machine/Mode.lean ====
section
/-! DEFINITION. The tweakable mode (42_tweakable_mode.md): doubling in GF(2^128), the masks, mask-cipher-mask, ciphertext
stealing. -/

namespace Sys2Proof.Machine

/-- The shift of R101: each byte shifted left by one, bit 7 of a byte carried into the next one; `c` is the carry into the
first byte and the second result the carry out of the last. -/
def shiftBytes : Bool → List Byte → List Byte × Bool
  | c, [] => ([], c)
  | c, t :: ts =>
    let (us, out) := shiftBytes t.msb ts
    (((t <<< 1) ||| (BitVec.ofBool c).setWidth 8) :: us, out)

/-- XOR `0x87` into the lowest byte, byte 0 (R101). -/
def reduce : List Byte → List Byte
  | [] => []
  | u :: us => (u ^^^ 0x87) :: us

/-- `Dbl(t)`: multiplication by alpha (R101). -/
def dbl (t : List Byte) : List Byte :=
  let (u, carry) := shiftBytes false t
  if carry then reduce u else u

/-- The masks `m, Dbl(m), Dbl(Dbl(m)), ...`, `n` of them, each from the one before: `T_0 .. T_{n-1}` for `m = T_0` (R102). -/
def masks : Nat → List Byte → List (List Byte)
  | 0, _ => []
  | n + 1, m => m :: masks n (dbl m)

/-- The cipher call of the mode with the data key: encrypt or decrypt (R104). -/
def cipherCall (dir : Dir) (rkD : Vector Word 32) (b : List Byte) : List Byte :=
  match dir with
  | .enc => encBlock rkD b
  | .dec => decBlock rkD b

/-- `Xex(dir, m, B)` (R104). -/
def xex (dir : Dir) (rkD : Vector Word 32) (m b : List Byte) : List Byte :=
  xorBytes (cipherCall dir rkD (xorBytes b m)) m

/-- `Process(dir, len)` of R113 on the `len` input bytes: `rkD` and `rkT` are `RK[D]` and `RK[T]`, `twk` the tweak. The tweak
is always encrypted (R106); the stolen block reuses `T_{n-1}` (R111); both directions do the same (R112). -/
def process (dir : Dir) (rkD rkT : Vector Word 32) (twk input : List Byte) : List Byte :=
  let n := input.length / 16
  let r := input.length % 16
  let ms := masks n (encBlock rkT twk)
  let os := List.zipWith (xex dir rkD) ms (fullBlocks n input)
  if r = 0 then os.flatten
  else
    let m := ms.getLastD []
    let cc := os.getLastD []
    let lb := input.drop (16 * n) ++ cc.drop r
    os.dropLast.flatten ++ xex dir rkD m lb ++ cc.take r

end Sys2Proof.Machine
end

