-- ==== Sys2Proof/Machine/TweakableMode.lean ====
section
/-! DEFINITION. The commands MNEW, MENC and MDEC (42_tweakable_mode.md R115 to R119). The checks stand in the order of R116. -/

namespace Sys2Proof.Machine

/-- MNEW len (R115): both slots in one step. -/
def execMnew (len : Nat) (s : State) : Host.Outcome State Fault Refusal :=
  if len ≠ 32 then raise .invalidKeyLength s
  else finish 0 ((s.setSlot .D (expand (firstOperand s)) true).setSlot .T (expand (secondOperand s)) true)

/-- What MENC and MDEC share: the checks of R116, then Process (R113) into `OBUF[0..len-1]`. -/
def modeStep (dir : Dir) (len : Nat) (s : State) : Host.Outcome State Fault Refusal :=
  if s.rkvD = false ∨ s.rkvT = false then raise .noKey s
  else if len < 16 then raise .inputTooShort s
  else if s.maxLen < len then raise .inputTooLong s
  else finish len (memWrite .obuf 0 (process dir s.rkD s.rkT (tweakOperand s) (modeInput s len)) s)

/-- MENC len (R117). -/
def execMenc (len : Nat) (s : State) : Host.Outcome State Fault Refusal := modeStep .enc len s

/-- MDEC len (R119). -/
def execMdec (len : Nat) (s : State) : Host.Outcome State Fault Refusal := modeStep .dec len s

end Sys2Proof.Machine
end

