-- ==== Sys2Proof/Machine/Dispatch.lean ====
section
/-! DEFINITION. The meaning of every command, one arm per constructor. -/

namespace Sys2Proof.Machine

def exec (i : Instr) (s : State) : Host.Outcome State Fault Refusal :=
  match i with
  | .cnew sl len => Sys2Proof.Machine.execCnew sl len s
  | .cenc sl len => Sys2Proof.Machine.execCenc sl len s
  | .cdec sl len => Sys2Proof.Machine.execCdec sl len s
  | .mnew len => Sys2Proof.Machine.execMnew len s
  | .menc len => Sys2Proof.Machine.execMenc len s
  | .mdec len => Sys2Proof.Machine.execMdec len s
  | .cdrop sl => Sys2Proof.Machine.execCdrop sl s

end Sys2Proof.Machine
end

