-- ==== Sys2Proof/Machine/Flags.lean ====
section
/-! DEFINITION. The status a command leaves and how the control registers show it: the error codes of 60_exceptions.md R125,
STATUS (10_state.md R24), OLEN (R25) and the read of CMD (R23). CORE has no other flag (R26). -/

namespace Sys2Proof.Machine

/-- The 4-bit code of R125. -/
def ErrCode.code : ErrCode → BitVec 4
  | .none => 0
  | .invalidKeyLength => 1
  | .inputTooShort => 2
  | .invalidBlockLength => 3
  | .illegalCommand => 4
  | .noKey => 5
  | .inputTooLong => 6

/-- STATUS (R24): `err` in bits 3:0, `rkv_d` in bit 4, `rkv_t` in bit 5, zeros above. -/
def statusWord (s : State) : Word :=
  ((BitVec.ofBool s.rkvT).setWidth 32 <<< 5) ||| ((BitVec.ofBool s.rkvD).setWidth 32 <<< 4) ||| s.err.code.setWidth 32

/-- The register OLEN (R25): `OLEN` in bits 23:0, zeros above. -/
def olenWord (s : State) : Word := s.olen.setWidth 32

/-- The value a control register reads as; `none` for a number that names no register (R22, R44). CMD reads as 0 (R23). -/
def csrValue (s : State) : Nat → Option Word
  | 0 => some 0
  | 1 => some (statusWord s)
  | 2 => some (olenWord s)
  | _ => .none

end Sys2Proof.Machine
end

