-- ==== Sys2Proof/Machine/HostPort.lean ====
section
/-! DEFINITION. What each move of the host or the platform does (70_reset_and_hazards.md R161; 20_memory.md R36, R42 to R44;
10_state.md R22 to R25). -/

namespace Sys2Proof.Machine

/-- A write of `w` to CMD: the command `w` encodes runs once, an illegal word raises IllegalCommand (R23, R132). -/
def runWord (w : Word) (s : State) : Host.Outcome State Fault Refusal :=
  match decode w with
  | .ok i => exec i s
  | .error _ => raise .illegalCommand s

/-- The host writes one byte; a write to OBUF is ignored (R36). -/
def hostWriteByte (sp : Space) (off : Nat) (b : Byte) (s : State) : Host.Outcome State Fault Refusal :=
  if off < s.size sp then
    match sp with
    | .obuf => .next s
    | .twk => .next (s.writeByte .twk off b)
    | .ibuf => .next (s.writeByte .ibuf off b)
  else .refused (.noSuchOffset sp off)

/-- The host reads one byte. -/
def hostReadByte (sp : Space) (off : Nat) (s : State) : Host.Outcome State Fault Refusal :=
  if off < s.size sp then .next (s.addAnswer (.byte (s.readByte sp off)))
  else .refused (.noSuchOffset sp off)

/-- The host writes a control register: CMD runs a command, writes to STATUS and OLEN are ignored (R23 to R25). -/
def hostWriteCsr (n : Nat) (w : Word) (s : State) : Host.Outcome State Fault Refusal :=
  match n with
  | 0 => runWord w s
  | 1 => .next s
  | 2 => .next s
  | _ => .refused (.noSuchRegister n)

/-- The host reads a control register. -/
def hostReadCsr (n : Nat) (s : State) : Host.Outcome State Fault Refusal :=
  match csrValue s n with
  | some w => .next (s.addAnswer (.word w))
  | .none => .refused (.noSuchRegister n)

/-- One move of R161. -/
def makeMove (mv : HostMove) (s : State) : Host.Outcome State Fault Refusal :=
  match mv with
  | .writeByte sp off b => hostWriteByte sp off b s
  | .readByte sp off => hostReadByte sp off s
  | .writeCsr n w => hostWriteCsr n w s
  | .readCsr n => hostReadCsr n s
  | .reset => .next (applyReset s)

end Sys2Proof.Machine
end

