-- ==== Sys2Proof/Machine/Step.lean ====
section
/-! DEFINITION. One step of the machine: the oldest pending move of the host (20_memory.md R47: one total order); with none
pending CORE is idle (70_reset_and_hazards.md R147, R159). -/

namespace Sys2Proof.Machine

/-- One step. -/
def step (s : State) : Host.Outcome State Fault Refusal :=
  match s.moves with
  | [] => .next s
  | mv :: rest => makeMove mv (s.setMoves rest)

/-- `s` with the host about to write the word to CMD: CORE fetches nothing from memory, its next command is the one the host
writes (10_state.md R14; log entry 2). -/
def State.withFetchWord (s : State) (nbits w : Nat) : State :=
  s.setMoves (.writeCsr 0 (tableWord nbits w) :: s.moves)

end Sys2Proof.Machine
end

