-- ==== Sys2Proof/Machine/Listing.lean ====
section
/-! DEFINITION. The listing notation of 30_encoding.md R62 and R63 as lists of host moves, and the implied-length commands. -/

namespace Sys2Proof.Machine.Listing

/-- `CNEW s` is `CNEW s, 16` (R62). -/
def cnew (s : Slot) : Instr := .cnew s 16

/-- `CENC s` is `CENC s, 16` (R62). -/
def cenc (s : Slot) : Instr := .cenc s 16

/-- `CDEC s` is `CDEC s, 16` (R62). -/
def cdec (s : Slot) : Instr := .cdec s 16

/-- `MNEW` is `MNEW 32` (R62). -/
def mnew : Instr := .mnew 32

/-- `.word w`: any 32-bit word written to CMD, legal or not (R62). -/
def word (w : Word) : List HostMove := [.writeCsr 0 w]

/-- A command line: its word written to CMD (R53). -/
def command (i : Instr) : List HostMove := word (encode i)

/-- `PUT sp, off, bytes`: single-byte writes in ascending offset order (R63). -/
def put (sp : Space) (off : Nat) : List Byte → List HostMove
  | [] => []
  | b :: bs => .writeByte sp off b :: put sp (off + 1) bs

/-- `GET sp, off, n`: single-byte reads in ascending offset order (R63). -/
def get (sp : Space) (off : Nat) : Nat → List HostMove
  | 0 => []
  | n + 1 => .readByte sp off :: get sp (off + 1) n

/-- `RD STATUS` (R63). -/
def rdStatus : List HostMove := [.readCsr 1]

/-- `RD OLEN` (R63). -/
def rdOlen : List HostMove := [.readCsr 2]

end Sys2Proof.Machine.Listing
end

