-- ==== Sys2Proof/Safety.lean ====
section
/-! DEFINITION. The terms the statements use: which moves name a location, the invariant of the state, what a command must
report (60_exceptions.md R125, R135), what it may change, and the spec's own second descriptions of the cipher, the expander and
the doubling (40_sbox_round.md R74; 41_key_schedule.md R90, R91; 42_tweakable_mode.md R100, R102), written apart from the
meanings. -/

namespace Sys2Proof.Machine

/-! ### Safe steps and the invariant -/

/-- The move names a location of CORE (R36, R43, R44). -/
def NamesLocation (s : State) : HostMove → Prop
  | .writeByte sp off _ => off < s.size sp
  | .readByte sp off => off < s.size sp
  | .writeCsr n _ => n < 3
  | .readCsr n => n < 3
  | .reset => True

/-- What holds of the state at reset and after every step: MAXLEN is in its range (R5), the buffers are in canonical form and
inside their spaces, `OLEN` never exceeds the buffer, and a failed command has `OLEN = 0` (R127). -/
structure State.Inv (s : State) : Prop where
  maxLen_ge : 32 ≤ s.maxLen
  maxLen_le : s.maxLen ≤ 16777215
  twk_wf : Memory.wf 16 s.twk
  ibuf_wf : Memory.wf s.maxLen s.ibuf
  obuf_wf : Memory.wf s.maxLen s.obuf
  olen_le : s.olen.toNat ≤ s.maxLen
  failed_olen : s.err ≠ .none → s.olen = 0

/-! ### What a command must report (R125, R135) -/

/-- Second check of R135: the slots the command needs hold a schedule (R133). CNEW, MNEW and CDROP need none. -/
def SlotsPresent (s : State) : Instr → Prop
  | .cenc sl _ => s.rkv sl = true
  | .cdec sl _ => s.rkv sl = true
  | .menc _ => s.rkvD = true ∧ s.rkvT = true
  | .mdec _ => s.rkvD = true ∧ s.rkvT = true
  | .cnew _ _ => True
  | .mnew _ => True
  | .cdrop _ => True

/-- Third check of R135: the error a length makes, by the table of 30_encoding.md R57 (`n` is the length, `maxLen` is MAXLEN). -/
def LengthError (maxLen : Nat) (i : Instr) (e : ErrCode) : Prop :=
  match i with
  | .cnew _ n => n ≠ 16 ∧ e = .invalidKeyLength
  | .mnew n => n ≠ 32 ∧ e = .invalidKeyLength
  | .cenc _ n => n ≠ 16 ∧ e = .invalidBlockLength
  | .cdec _ n => n ≠ 16 ∧ e = .invalidBlockLength
  | .menc n => (n < 16 ∧ e = .inputTooShort) ∨ (16 ≤ n ∧ maxLen < n ∧ e = .inputTooLong)
  | .mdec n => (n < 16 ∧ e = .inputTooShort) ∨ (16 ≤ n ∧ maxLen < n ∧ e = .inputTooLong)
  | .cdrop _ => False

/-- How many result bytes a successful command leaves in OBUF (R25). -/
def resultLength : Instr → Nat
  | .cenc _ _ => 16
  | .cdec _ _ => 16
  | .menc n => n
  | .mdec n => n
  | .cnew _ _ => 0
  | .mnew _ => 0
  | .cdrop _ => 0

/-- The command completes with its own effect: no check of R135 fails. -/
def Succeeds (s : State) (i : Instr) : Prop := SlotsPresent s i ∧ ∀ e, ¬ LengthError s.maxLen i e

/-! ### What a command may change -/

/-- Every byte of the three buffers reads as before, but for OBUF below `n`. -/
def SameBytesBut (n : Nat) (s t : State) : Prop :=
  ∀ sp off, ¬ (sp = .obuf ∧ off < n) → t.readByte sp off = s.readByte sp off

/-- What no command touches: MAXLEN, the reset counter, the host's later moves, the answers already given. -/
def SameRest (s t : State) : Prop :=
  t.maxLen = s.maxLen ∧ t.resets = s.resets ∧ t.moves = s.moves ∧ t.answers = s.answers

/-- Both subkey stores and their valid bits are as before. -/
def SameSlots (s t : State) : Prop := ∀ sl, t.rk sl = s.rk sl ∧ t.rkv sl = s.rkv sl

/-- The other slot is as before (R18). -/
def SameOtherSlot (sl : Slot) (s t : State) : Prop := ∀ sl', sl' ≠ sl → t.rk sl' = s.rk sl' ∧ t.rkv sl' = s.rkv sl'

/-- The command failed with error `e` and changed nothing else (R127). -/
def FailsWith (o : Host.Outcome State Fault Refusal) (s : State) (e : ErrCode) : Prop :=
  o = .next { s with err := e, olen := 0 }

/-- The command succeeded leaving `n` as the length of its result (R25, R26). -/
def SucceededWith (t : State) (n : Nat) : Prop := t.err = .none ∧ t.olen = BitVec.ofNat 24 n

/-! ### Hidden subkeys -/

/-- `t` is `s` but for the subkeys of slots that hold no schedule (R17). -/
def SameButDeadSubkeys (s t : State) : Prop :=
  t = { s with rkD := t.rkD, rkT := t.rkT } ∧ ∀ sl, s.rkv sl = true → t.rk sl = s.rk sl

/-- `t` is `s` but for subkeys. -/
def SameButSubkeys (s t : State) : Prop := t = { s with rkD := t.rkD, rkT := t.rkT }

/-- Two outcomes are alike: both go on, in related states, or both stop for the same reason. -/
def AlikeOutcomes (r : State → State → Prop) : Host.Outcome State Fault Refusal → Host.Outcome State Fault Refusal → Prop
  | .next a, .next b => r a b
  | .refused x, .refused y => x = y
  | .fault x, .fault y => x = y
  | _, _ => False

/-! ### The spec's second descriptions -/

/-- The example of 95_test_vectors.md section 1: at once its key and its plaintext. -/
def exampleBytes : List Byte :=
  [0x01, 0x23, 0x45, 0x67, 0x89, 0xab, 0xcd, 0xef, 0xfe, 0xdc, 0xba, 0x98, 0x76, 0x54, 0x32, 0x10]

/-- The ciphertext of 95_test_vectors.md section 1. -/
def exampleCiphertext : List Byte :=
  [0x68, 0x1e, 0xdf, 0x34, 0xd2, 0x06, 0x96, 0x5e, 0x86, 0xb3, 0xe9, 0x4f, 0x53, 0x6e, 0x42, 0x46]

/-- `out` is the block `b` through the 32 rounds with the subkeys `k`, in the numbering `X[0..35]` of R74, with the round of
R72 and the mixing `L(tau(A))` of R71. -/
def IsCrypt (k : Fin 32 → Word) (b out : List Byte) : Prop :=
  ∃ x : Nat → Word,
    x 0 = wordAt b 0 ∧ x 1 = wordAt b 1 ∧ x 2 = wordAt b 2 ∧ x 3 = wordAt b 3 ∧
    (∀ i : Fin 32, x (i + 4) = x i ^^^ lRound (tau (x (i + 1) ^^^ x (i + 2) ^^^ x (i + 3) ^^^ k i))) ∧
    out = bytes ⟨x 35, x 34, x 33, x 32⟩

/-- `out` is `Enc` of `b` with the schedule `rk`: round `i` uses `RK[i]` (R75). -/
def IsEnc (rk : Vector Word 32) : List Byte → List Byte → Prop := IsCrypt fun i => rk[i]

/-- `out` is `Dec` of `b` with the schedule `rk`: round `i` uses `RK[31 - i]` (R76). -/
def IsDec (rk : Vector Word 32) : List Byte → List Byte → Prop := IsCrypt fun i => rk[31 - i.val]

/-- `rk` is the schedule of `key` by the sequence `MK[0..35]` of R89 and R90. -/
def IsSchedule (key : List Byte) (rk : Vector Word 32) : Prop :=
  ∃ mk : Nat → Word,
    mk 0 = wordAt key 0 ^^^ 0xA3B1BAC6 ∧ mk 1 = wordAt key 1 ^^^ 0x56AA3350 ∧
    mk 2 = wordAt key 2 ^^^ 0x677D9197 ∧ mk 3 = wordAt key 3 ^^^ 0xB27022DC ∧
    ∀ i : Fin 32,
      mk (i + 4) = mk i ^^^ tKey (mk (i + 1) ^^^ mk (i + 2) ^^^ mk (i + 3) ^^^ ckWord i) ∧ rk[i] = mk (i + 4)

/-- The four-word circular buffer of R91: `n` rounds from round `i` on. -/
def circularRounds : Nat → Nat → (Nat → Word) → List Word
  | 0, _, _ => []
  | n + 1, i, w =>
    let a := w ((i + 1) % 4) ^^^ w ((i + 2) % 4) ^^^ w ((i + 3) % 4) ^^^ ckWord i
    let rk := w (i % 4) ^^^ tKey a
    rk :: circularRounds n (i + 1) (fun k => if k = i % 4 then rk else w k)

/-- `N(t)`: the number a mask stands for, byte 0 least significant (R100). -/
def leNumber : List Byte → Nat
  | [] => 0
  | b :: bs => b.toNat + 256 * leNumber bs

/-- `T_j` from `T_0` (R102). -/
def maskAt (t0 : List Byte) : Nat → List Byte
  | 0 => t0
  | j + 1 => dbl (maskAt t0 j)

/-- `T_j` of the mode on state `s` (R102, R106). -/
def stateMask (s : State) (j : Nat) : List Byte := maskAt (encBlock s.rkT (memRead s .twk 0 16)) j

/-- The result of rule R110 for full block `j` of the input in `s`. -/
def blockResult (dir : Dir) (s : State) (j : Nat) : List Byte :=
  xex dir s.rkD (stateMask s j) (memRead s .ibuf (16 * j) 16)

/-- `OBUF` of `t` holds what R110 and R111 say of the `len` input bytes of `s`: every full block its own result, but that the
last full block of a stealing input holds the ciphered `LB`, and the tail the first `r` bytes of `CC`. -/
def HoldsModeOutput (dir : Dir) (len : Nat) (s t : State) : Prop :=
  let n := len / 16
  let r := len % 16
  let cc := blockResult dir s (n - 1)
  (∀ j, j < n → (j < n - 1 ∨ r = 0) → memRead t .obuf (16 * j) 16 = blockResult dir s j) ∧
  (r ≠ 0 →
    memRead t .obuf (16 * (n - 1)) 16 = xex dir s.rkD (stateMask s (n - 1)) (memRead s .ibuf (16 * n) r ++ cc.drop r) ∧
    memRead t .obuf (16 * n) r = cc.take r)

end Sys2Proof.Machine
end

