-- ==== Sys2Proof/Certificates/Slice0/Obligations.lean ====
section
/-! DEFINITION. The statements about CORE for the provers, each from a numbered rule of spec/. -/

open Sys2Proof Sys2Proof.Machine

/-! ### Encoding (30_encoding.md) -/

/-- R54 to R57, R61: decoding the word of a well-formed command gives the command back. -/
def Obligations.DecodeOfEncode : Prop := ∀ i : Instr, i.WellFormed → decode (encode i) = .ok i

/-- R54, R58, R61: a word that decodes is the word of the command it decodes to, so every word has one meaning. -/
def Obligations.EncodeOfDecode : Prop := ∀ (w : Word) (i : Instr), decode w = .ok i → i.WellFormed ∧ encode i = w

/-- R58: a word decodes to a row's command exactly when it matches the row; the rows are disjoint; the worked encodings. -/
def Obligations.OpcodeMapDecidesDecoding : Prop :=
  (∀ w : Word, ∀ r ∈ opcodeMap, r.Matches w ↔ ∃ i, decode w = .ok i ∧ i.mnemonic = r.mnemonic) ∧
  (∀ w : Word, ∀ r ∈ opcodeMap, ∀ r' ∈ opcodeMap, r.Matches w → r'.Matches w → r = r') ∧
  encode (.cnew .D 16) = 0x00001001 ∧ encode (.cnew .T 16) = 0x00001011 ∧ encode (.cenc .D 16) = 0x00001002 ∧
  encode (.cenc .T 16) = 0x00001012 ∧ encode (.cdec .D 16) = 0x00001003 ∧ encode (.cdec .T 16) = 0x00001013 ∧
  encode (.mnew 32) = 0x00002004 ∧ encode (.menc 17) = 0x00001105 ∧ encode (.mdec 32) = 0x00002006 ∧
  encode (.cdrop .D) = 0x00000007 ∧ encode (.cdrop .T) = 0x00000017

/-- R59: which words are illegal, and that an illegal word changes only ERR and OLEN. -/
def Obligations.IllegalWordsRaiseIllegalCommand : Prop :=
  (∀ w : Word, (∃ e, decode w = .error e) ↔
    ((opField w).toNat = 0 ∨ 8 ≤ (opField w).toNat ∨ rsvField w ≠ 0 ∨
      (((opField w).toNat = 4 ∨ (opField w).toNat = 5 ∨ (opField w).toNat = 6) ∧ slotField w = 1) ∨
      ((opField w).toNat = 7 ∧ (lenField w).toNat ≠ 0))) ∧
  (∀ w : Word, (∃ e, decode w = .error e) ↔ ∀ r ∈ opcodeMap, ¬ r.Matches w) ∧
  (∀ (w : Word) (s : State), (∃ e, decode w = .error e) → FailsWith (runWord w s) s .illegalCommand) ∧
  (∃ e, decode 0x00000000 = .error e) ∧ (∃ e, decode 0xFFFFFFFF = .error e)

/-- 95_test_vectors.md section 7: words and what they decode to. -/
def Obligations.SpecWordsDecode : Prop :=
  decode 0x00001001 = .ok (.cnew .D 16) ∧ decode 0x00001011 = .ok (.cnew .T 16) ∧ decode 0x00000F01 = .ok (.cnew .D 15) ∧
  decode 0x00001002 = .ok (.cenc .D 16) ∧ decode 0x00001013 = .ok (.cdec .T 16) ∧ decode 0x00002004 = .ok (.mnew 32) ∧
  decode 0x00001105 = .ok (.menc 17) ∧ decode 0x00002006 = .ok (.mdec 32) ∧ decode 0xFFFFFF05 = .ok (.menc 16777215) ∧
  decode 0x00000007 = .ok (.cdrop .D) ∧ decode 0x00000017 = .ok (.cdrop .T) ∧
  decode 0x00001021 = .error .reservedBits ∧ decode 0x00002014 = .error .slotNotZero ∧
  decode 0x00000107 = .error .lenNotZero ∧ decode 0x00001008 = .error .unassignedOp

/-! ### The host's moves (10_state.md section 5, 20_memory.md, 70_reset_and_hazards.md section 6)

The list of moves and the list of answers are the model's form of the host's accesses (log entries 1 and 3). -/

/-- R23: a write to CMD runs the decoded command once, before any later move; a read of CMD gives 0 and does nothing. This is
the statement that a step runs the decoded instruction: step adds only that the move is taken off the host's list. -/
def Obligations.CmdWriteRunsTheDecodedCommand : Prop :=
  (∀ (s : State) (w : Word) (rest : List HostMove), s.moves = .writeCsr 0 w :: rest →
    (∀ i, decode w = .ok i → step s = exec i (s.setMoves rest)) ∧
    (∀ e, decode w = .error e → FailsWith (step s) (s.setMoves rest) .illegalCommand) ∧
    ∃ t, step s = .next t ∧ t.moves = rest) ∧
  (∀ (s : State) (rest : List HostMove), s.moves = .readCsr 0 :: rest →
    step s = .next ((s.setMoves rest).addAnswer (.word 0)))

/-- R147, R159, R161: with no move pending CORE is idle, and a move that neither writes CMD nor resets leaves the subkeys, the
valid bits, the result and the status alone. -/
def Obligations.OnlyCommandsAndResetDoWork : Prop :=
  (∀ s : State, s.moves = [] → step s = .next s) ∧
  (∀ (s t : State) (mv : HostMove) (rest : List HostMove), s.moves = mv :: rest → mv ≠ .reset →
    (∀ w, mv ≠ .writeCsr 0 w) → step s = .next t →
      SameSlots s t ∧ t.err = s.err ∧ t.olen = s.olen ∧ t.obuf = s.obuf ∧ t.maxLen = s.maxLen ∧ t.resets = s.resets ∧
      t.moves = rest)

/-- R24: the fields of STATUS, with the numbers of R125 in its error field; a read has no side effect, a write is ignored. -/
def Obligations.StatusShowsErrAndSlots : Prop :=
  ∀ (s : State) (rest : List HostMove),
    (s.moves = .readCsr 1 :: rest → step s = .next ((s.setMoves rest).addAnswer (.word (statusWord s)))) ∧
    (statusWord s).extractLsb' 0 4 = s.err.code ∧
    (statusWord s).extractLsb' 4 1 = BitVec.ofBool s.rkvD ∧
    (statusWord s).extractLsb' 5 1 = BitVec.ofBool s.rkvT ∧
    (statusWord s).extractLsb' 6 26 = 0 ∧
    (∀ w, s.moves = .writeCsr 1 w :: rest → step s = .next (s.setMoves rest)) ∧
    ErrCode.none.code = 0 ∧ ErrCode.invalidKeyLength.code = 1 ∧ ErrCode.inputTooShort.code = 2 ∧
    ErrCode.invalidBlockLength.code = 3 ∧ ErrCode.illegalCommand.code = 4 ∧ ErrCode.noKey.code = 5 ∧
    ErrCode.inputTooLong.code = 6

/-- R25: the register OLEN, what it holds after every command, success or failure. -/
def Obligations.OlenIsResultLength : Prop :=
  (∀ (s : State) (rest : List HostMove),
    (s.moves = .readCsr 2 :: rest → step s = .next ((s.setMoves rest).addAnswer (.word (olenWord s)))) ∧
    (olenWord s).extractLsb' 0 24 = s.olen ∧ (olenWord s).extractLsb' 24 8 = 0 ∧
    (∀ w, s.moves = .writeCsr 2 w :: rest → step s = .next (s.setMoves rest))) ∧
  (∀ (s : State) (w : Word), ∃ t, runWord w s = .next t ∧
    (∀ i, decode w = .ok i → Succeeds s i → t.olen.toNat = resultLength i) ∧
    (∀ i, decode w = .ok i → ¬ Succeeds s i → t.olen = 0) ∧
    (∀ e, decode w = .error e → t.olen = 0))

/-- R36: the host's accesses, one byte or one whole register; a write to OBUF is ignored. -/
def Obligations.HostAccessesOneLocation : Prop :=
  (∀ s : State, s.size .twk = 16 ∧ s.size .ibuf = s.maxLen ∧ s.size .obuf = s.maxLen) ∧
  (∀ (s : State) (sp : Space) (off : Nat) (rest : List HostMove), off < s.size sp → s.moves = .readByte sp off :: rest →
    step s = .next ((s.setMoves rest).addAnswer (.byte (s.readByte sp off)))) ∧
  (∀ (s : State) (sp : Space) (off : Nat) (b : Byte) (rest : List HostMove), off < s.size sp →
    s.moves = .writeByte sp off b :: rest → ∃ t, step s = .next t ∧
      (∀ sp' off', t.readByte sp' off' = if sp' = sp ∧ off' = off ∧ sp ≠ .obuf then b else s.readByte sp' off') ∧
      SameSlots s t ∧ t.err = s.err ∧ t.olen = s.olen ∧ SameRest (s.setMoves rest) t) ∧
  (∀ (s : State) (n : Nat) (rest : List HostMove), n < 3 →
    (s.moves = .readCsr n :: rest → ∃ w, step s = .next ((s.setMoves rest).addAnswer (.word w))) ∧
    (∀ w, s.moves = .writeCsr n w :: rest → ∃ t, step s = .next t ∧ (n ≠ 0 → t = s.setMoves rest)))

/-- R43, R44: an access that names no location is refused: it is not a step of the machine. -/
def Obligations.NoLocationIsRefused : Prop :=
  (∀ (s : State) (sp : Space) (off : Nat) (rest : List HostMove), s.size sp ≤ off →
    (s.moves = .readByte sp off :: rest → step s = .refused (.noSuchOffset sp off)) ∧
    (∀ b, s.moves = .writeByte sp off b :: rest → step s = .refused (.noSuchOffset sp off))) ∧
  (∀ (s : State) (n : Nat) (rest : List HostMove), 3 ≤ n →
    (s.moves = .readCsr n :: rest → step s = .refused (.noSuchRegister n)) ∧
    (∀ w, s.moves = .writeCsr n w :: rest → step s = .refused (.noSuchRegister n)))

/-- R36, R126, R161: every move that names a location completes; only the move itself leaves the host's list, and MAXLEN
stays. CORE never faults. -/
def Obligations.EveryLocatedMoveCompletes : Prop :=
  ∀ (s : State) (mv : HostMove) (rest : List HostMove), s.moves = mv :: rest →
    ((∃ t, step s = .next t) ↔ NamesLocation s mv) ∧
    ∀ t, step s = .next t → t.moves = rest ∧ t.maxLen = s.maxLen

/-- R42: reads change nothing and repeat; a write to TWK or IBUF changes that byte only; a command run twice leaves exactly
what it left the first time. -/
def Obligations.SideEffectsOfHostAccesses : Prop :=
  (∀ (s t : State) (mv : HostMove) (rest : List HostMove), s.moves = mv :: rest →
    ((∃ sp off, mv = .readByte sp off) ∨ ∃ n, mv = .readCsr n) → step s = .next t →
      ∃ a, t = (s.setMoves rest).addAnswer a ∧
        ∀ rest', step (t.setMoves (mv :: rest')) = .next ((t.setMoves rest').addAnswer a)) ∧
  (∀ (s : State) (sp : Space) (off : Nat) (b : Byte) (rest : List HostMove), sp ≠ .obuf → off < s.size sp →
    s.moves = .writeByte sp off b :: rest → ∃ t, step s = .next t ∧ t.readByte sp off = b ∧
      (∀ sp' off', ¬ (sp' = sp ∧ off' = off) → t.readByte sp' off' = s.readByte sp' off') ∧
      SameSlots s t ∧ t.err = s.err ∧ t.olen = s.olen ∧ SameRest (s.setMoves rest) t) ∧
  (∀ (s : State) (w : Word), ∃ t, runWord w s = .next t ∧ runWord w t = .next t)

/-- R63: the moves of a PUT leave its bytes in the buffer from the offset on, and touch nothing else. -/
def Obligations.PutStoresItsBytes : Prop :=
  ∀ (s : State) (sp : Space) (off : Nat) (bs : List Byte) (rest : List HostMove), sp ≠ .obuf → off + bs.length ≤ s.size sp →
    s.moves = Listing.put sp off bs ++ rest →
    ∃ t : State, Sys2Proof.core.run bs.length s = .next t ∧ memRead t sp off bs.length = bs ∧
      (∀ sp' off', ¬ (sp' = sp ∧ off ≤ off' ∧ off' < off + bs.length) → t.readByte sp' off' = s.readByte sp' off') ∧
      SameSlots s t ∧ t.err = s.err ∧ t.olen = s.olen ∧ SameRest (s.setMoves rest) t

/-- R63: the moves of a GET answer the bytes of the buffer in ascending order and change nothing. -/
def Obligations.GetAnswersTheBytes : Prop :=
  ∀ (s : State) (sp : Space) (off n : Nat) (rest : List HostMove), off + n ≤ s.size sp →
    s.moves = Listing.get sp off n ++ rest →
    (Sys2Proof.core.run n s : Host.Outcome State Fault Refusal) =
      .next { s with moves := rest, answers := s.answers ++ (memRead s sp off n).map Answer.byte }

/-! ### Errors (60_exceptions.md) -/

/-- R135: the checks in their order, the first that fails is the one reported. -/
def Obligations.FirstFailingCheckIsReported : Prop :=
  (∀ (s : State) (w : Word), ∃ t, runWord w s = .next t ∧
    (∀ e, decode w = .error e → t.err = .illegalCommand) ∧
    ∀ i, decode w = .ok i →
      (¬ SlotsPresent s i → t.err = .noKey) ∧
      (SlotsPresent s i → ∀ e, LengthError s.maxLen i e → t.err = e) ∧
      (Succeeds s i → t.err = .none)) ∧
  (∀ s : State, s.rkvD = false → s.rkvT = false → FailsWith (exec (.menc 5) s) s .noKey) ∧
  (∀ s : State, s.rkvD = true → s.rkvT = true → FailsWith (exec (.menc 5) s) s .inputTooShort)

/-- R127: raising an error writes ERR and OLEN and nothing else; a command that leaves an error did exactly that. -/
def Obligations.FailedCommandChangesOnlyStatus : Prop :=
  (∀ (s : State) (e : ErrCode), FailsWith (raise e s) s e) ∧
  (∀ (s : State) (w : Word), ∃ t, runWord w s = .next t ∧ (t.err ≠ .none → t = { s with err := t.err, olen := 0 }))

/-- R136, R137: after a failed command every command runs as if it had not been issued, and the same one fails the same way. -/
def Obligations.FailureLeavesNoTrace : Prop :=
  ∀ (s t : State) (w : Word), runWord w s = .next t → t.err ≠ .none →
    (∀ v, runWord v t = runWord v s) ∧ runWord w t = .next t

/-- R26: ERR is the outcome of the last command, not sticky, read by no command and written by no other access. -/
def Obligations.ErrIsOutcomeOfLastCommand : Prop :=
  (∀ (s : State) (w : Word), ∃ t, runWord w s = .next t ∧
    (t.err = .none ↔ ∃ i, decode w = .ok i ∧ Succeeds s i) ∧
    ∀ e, runWord w { s with err := e } = .next t) ∧
  (∀ (s t : State) (mv : HostMove) (rest : List HostMove), s.moves = mv :: rest → mv ≠ .reset →
    (∀ w, mv ≠ .writeCsr 0 w) → step s = .next t → t.err = s.err)

/-- R128: the key-length errors of CNEW and MNEW. -/
def Obligations.KeyLengthErrors : Prop :=
  (∀ (s : State) (sl : Slot) (n : Nat), n ≠ 16 → FailsWith (exec (.cnew sl n) s) s .invalidKeyLength) ∧
  (∀ (s : State) (n : Nat), n ≠ 32 → FailsWith (exec (.mnew n) s) s .invalidKeyLength)

/-- R129, R131: the length errors of MENC and MDEC on a mode that exists. -/
def Obligations.ModeLengthErrors : Prop :=
  ∀ (s : State) (n : Nat), s.rkvD = true → s.rkvT = true →
    (n < 16 → FailsWith (exec (.menc n) s) s .inputTooShort ∧ FailsWith (exec (.mdec n) s) s .inputTooShort) ∧
    (16 ≤ n → s.maxLen < n → FailsWith (exec (.menc n) s) s .inputTooLong ∧ FailsWith (exec (.mdec n) s) s .inputTooLong)

/-- R130: the block-length error of CENC and CDEC on an instance that exists. -/
def Obligations.BlockLengthErrors : Prop :=
  ∀ (s : State) (sl : Slot) (n : Nat), s.rkv sl = true → n ≠ 16 →
    FailsWith (exec (.cenc sl n) s) s .invalidBlockLength ∧ FailsWith (exec (.cdec sl n) s) s .invalidBlockLength

/-- R133: a command on an empty slot fails with NoKey, whatever its length. -/
def Obligations.EmptySlotFailsWithNoKey : Prop :=
  (∀ (s : State) (sl : Slot) (n : Nat), s.rkv sl = false →
    FailsWith (exec (.cenc sl n) s) s .noKey ∧ FailsWith (exec (.cdec sl n) s) s .noKey) ∧
  (∀ (s : State) (n : Nat), s.rkvD = false ∨ s.rkvT = false →
    FailsWith (exec (.menc n) s) s .noKey ∧ FailsWith (exec (.mdec n) s) s .noKey)

/-! ### The commands on keys (41_key_schedule.md section 3, 42_tweakable_mode.md R115) -/

/-- R95: CNEW with `len = 16` completes, with its frame. -/
def Obligations.CnewCompletes : Prop :=
  ∀ (s : State) (sl : Slot), ∃ t, exec (.cnew sl 16) s = .next t ∧
    IsSchedule (memRead s .ibuf 0 16) (t.rk sl) ∧ t.rkv sl = true ∧ SucceededWith t 0 ∧
    SameOtherSlot sl s t ∧ SameBytesBut 0 s t ∧ SameRest s t

/-- R96: re-keying succeeds, nothing of the old schedule is left, and it is a drop followed by a construction, in one step. -/
def Obligations.RekeyForgetsOldSchedule : Prop :=
  ∀ (s : State) (sl : Slot) (k : Vector Word 32) (v : Bool), ∃ t d, exec (.cnew sl 16) s = .next t ∧ t.err = .none ∧
    exec (.cnew sl 16) (s.setSlot sl k v) = .next t ∧ exec (.cdrop sl) s = .next d ∧ exec (.cnew sl 16) d = .next t

/-- R115: MNEW with `len = 32` completes, with its frame. -/
def Obligations.MnewCompletes : Prop :=
  ∀ s : State, ∃ t, exec (.mnew 32) s = .next t ∧
    IsSchedule (memRead s .ibuf 0 16) (t.rk .D) ∧ IsSchedule (memRead s .ibuf 16 16) (t.rk .T) ∧
    t.rkv .D = true ∧ t.rkv .T = true ∧ SucceededWith t 0 ∧ SameBytesBut 0 s t ∧ SameRest s t

/-- R97: CDROP completes, with its frame, and the commands that need the slot then raise NoKey. -/
def Obligations.CdropCompletes : Prop :=
  ∀ (s : State) (sl : Slot), ∃ t, exec (.cdrop sl) s = .next t ∧
    (∀ i : Fin 32, (t.rk sl)[i] = 0) ∧ t.rkv sl = false ∧ SucceededWith t 0 ∧
    SameOtherSlot sl s t ∧ SameBytesBut 0 s t ∧ SameRest s t ∧
    ∀ n, FailsWith (exec (.cenc sl n) t) t .noKey ∧ FailsWith (exec (.cdec sl n) t) t .noKey ∧
      FailsWith (exec (.menc n) t) t .noKey ∧ FailsWith (exec (.mdec n) t) t .noKey

/-- R17: which command words set and clear a valid bit (reset clears it too: R145, ResetEmptiesSlots). -/
def Obligations.ValidBitFollowsLifecycle : Prop :=
  ∀ (s : State) (w : Word) (sl : Slot), ∃ t, runWord w s = .next t ∧
    (t.rkv sl = true ↔ decode w = .ok (.cnew sl 16) ∨ decode w = .ok (.mnew 32) ∨
      (s.rkv sl = true ∧ decode w ≠ .ok (.cdrop sl)))

/-- R18: the two stores are independent and a schedule is immutable; equal keys are accepted. -/
def Obligations.SchedulesAreImmutable : Prop :=
  (∀ (s : State) (w : Word) (sl : Slot), ∃ t, runWord w s = .next t ∧
    (t.rk sl = s.rk sl ∨ decode w = .ok (.cnew sl 16) ∨ decode w = .ok (.mnew 32) ∨ decode w = .ok (.cdrop sl))) ∧
  (∀ (s : State) (sl : Slot) (n : Nat), ∀ i ∈ [Instr.cenc sl n, .cdec sl n, .menc n, .mdec n],
    ∃ t, exec i s = .next t ∧ SameSlots s t) ∧
  (∀ s : State, memRead s .ibuf 0 16 = memRead s .ibuf 16 16 →
    ∃ t, exec (.mnew 32) s = .next t ∧ t.err = .none ∧ t.rkD = t.rkT)

/-- R78: two instances made from the same key bytes give the same result on every block. -/
def Obligations.SameKeySameResult : Prop :=
  ∀ s : State, ∃ t u v x, exec (.cnew .D 16) s = .next t ∧ exec (.cnew .T 16) t = .next u ∧ u.rkD = u.rkT ∧
    exec (.cenc .D 16) u = .next v ∧ exec (.cenc .T 16) u = .next x ∧ v = x ∧ v.err = .none

/-! ### The expander (41_key_schedule.md sections 1 and 2) -/

/-- R85, R86: the constants of the expander, CK by its formula and by its table. -/
def Obligations.KeyScheduleConstants : Prop :=
  cipherConsts.fk = ⟨0xA3B1BAC6, 0x56AA3350, 0x677D9197, 0xB27022DC⟩ ∧
  cipherConsts.ck = (List.range 32).map ckWord ∧
  (∀ i, i < 32 → (byte0 (ckWord i)).toNat = (4 * i + 0) * 7 % 256 ∧ (byte1 (ckWord i)).toNat = (4 * i + 1) * 7 % 256 ∧
    (byte2 (ckWord i)).toNat = (4 * i + 2) * 7 % 256 ∧ (byte3 (ckWord i)).toNat = (4 * i + 3) * 7 % 256) ∧
  (List.range 32).map ckWord =
    [0x00070e15, 0x1c232a31, 0x383f464d, 0x545b6269, 0x70777e85, 0x8c939aa1, 0xa8afb6bd, 0xc4cbd2d9] ++
    [0xe0e7eef5, 0xfc030a11, 0x181f262d, 0x343b4249, 0x50575e65, 0x6c737a81, 0x888f969d, 0xa4abb2b9] ++
    [0xc0c7ced5, 0xdce3eaf1, 0xf8ff060d, 0x141b2229, 0x30373e45, 0x4c535a61, 0x686f767d, 0x848b9299] ++
    [0xa0a7aeb5, 0xbcc3cad1, 0xd8dfe6ed, 0xf4fb0209, 0x10171e25, 0x2c333a41, 0x484f565d, 0x646b7279]

/-- R88, R89, R90: T' is the substitution followed by L', and the schedule is the sequence MK[0..35], with the worked examples
and the ends of the example schedule (R92). -/
def Obligations.ExpandFollowsRecurrence : Prop :=
  (∀ a : Word, tKey a = lKey (tau a)) ∧
  tKey 0x8283cb69 = 0x53b37958 ∧ tau 0x8283cb69 = 0x8ad24122 ∧ tKey 0x00000000 = 0x67676767 ∧ tKey 0xffffffff = 0x65656565 ∧
  (∀ key : List Byte, key.length = 16 → IsSchedule key (expand key)) ∧
  initialState exampleBytes = ⟨0xa292ffa1, 0xdf01febf, 0x99a12b0f, 0xc42410cc⟩ ∧
  (0xdf01febf ^^^ 0x99a12b0f ^^^ 0xc42410cc ^^^ ckWord 0 : Word) = 0x8283cb69 ∧
  (expand exampleBytes)[0] = 0xf12186f9 ∧ (expand exampleBytes)[1] = 0x41662b61 ∧
  (expand exampleBytes)[30] = 0x01cf72e5 ∧ (expand exampleBytes)[31] = 0x9124a012

/-- R91: the four-word circular buffer computes the same subkeys. -/
def Obligations.CircularBufferAgrees : Prop :=
  ∀ key : List Byte, key.length = 16 →
    (expand key).toList = circularRounds 32 0 (fun k =>
      if k = 0 then (initialState key).x0 else if k = 1 then (initialState key).x1
      else if k = 2 then (initialState key).x2 else (initialState key).x3)

/-! ### The cipher (40_sbox_round.md, 00_scope.md R10) -/

/-- R10: the conversions between a block and four words. -/
def Obligations.WordsAndBytesAreInverse : Prop :=
  (∀ q : Quad, words (bytes q) = q) ∧ (∀ b : List Byte, b.length = 16 → bytes (words b) = b) ∧
  (∀ (b : List Byte) (k : Nat), b.length = 16 → k < 4 → wordAt b k =
    (b.getD (4 * k) 0).setWidth 32 <<< 24 ||| (b.getD (4 * k + 1) 0).setWidth 32 <<< 16 |||
    (b.getD (4 * k + 2) 0).setWidth 32 <<< 8 ||| (b.getD (4 * k + 3) 0).setWidth 32) ∧
  words [0x01, 0x23, 0x45, 0x67, 0x89, 0xab, 0xcd, 0xef, 0xfe, 0xdc, 0xba, 0x98, 0x76, 0x54, 0x32, 0x10] =
    ⟨0x01234567, 0x89abcdef, 0xfedcba98, 0x76543210⟩

/-- R67: the S-box is the rule's table, row by row; it is a permutation with one fixed point (R68). -/
def Obligations.SboxIsTheTable : Prop :=
  (List.range 16).map (fun row => (List.range 16).map fun col => sbox (BitVec.ofNat 8 (16 * row + col))) =
    [[0xd6, 0x90, 0xe9, 0xfe, 0xcc, 0xe1, 0x3d, 0xb7, 0x16, 0xb6, 0x14, 0xc2, 0x28, 0xfb, 0x2c, 0x05],
     [0x2b, 0x67, 0x9a, 0x76, 0x2a, 0xbe, 0x04, 0xc3, 0xaa, 0x44, 0x13, 0x26, 0x49, 0x86, 0x06, 0x99],
     [0x9c, 0x42, 0x50, 0xf4, 0x91, 0xef, 0x98, 0x7a, 0x33, 0x54, 0x0b, 0x43, 0xed, 0xcf, 0xac, 0x62],
     [0xe4, 0xb3, 0x1c, 0xa9, 0xc9, 0x08, 0xe8, 0x95, 0x80, 0xdf, 0x94, 0xfa, 0x75, 0x8f, 0x3f, 0xa6]] ++
    [[0x47, 0x07, 0xa7, 0xfc, 0xf3, 0x73, 0x17, 0xba, 0x83, 0x59, 0x3c, 0x19, 0xe6, 0x85, 0x4f, 0xa8],
     [0x68, 0x6b, 0x81, 0xb2, 0x71, 0x64, 0xda, 0x8b, 0xf8, 0xeb, 0x0f, 0x4b, 0x70, 0x56, 0x9d, 0x35],
     [0x1e, 0x24, 0x0e, 0x5e, 0x63, 0x58, 0xd1, 0xa2, 0x25, 0x22, 0x7c, 0x3b, 0x01, 0x21, 0x78, 0x87],
     [0xd4, 0x00, 0x46, 0x57, 0x9f, 0xd3, 0x27, 0x52, 0x4c, 0x36, 0x02, 0xe7, 0xa0, 0xc4, 0xc8, 0x9e]] ++
    [[0xea, 0xbf, 0x8a, 0xd2, 0x40, 0xc7, 0x38, 0xb5, 0xa3, 0xf7, 0xf2, 0xce, 0xf9, 0x61, 0x15, 0xa1],
     [0xe0, 0xae, 0x5d, 0xa4, 0x9b, 0x34, 0x1a, 0x55, 0xad, 0x93, 0x32, 0x30, 0xf5, 0x8c, 0xb1, 0xe3],
     [0x1d, 0xf6, 0xe2, 0x2e, 0x82, 0x66, 0xca, 0x60, 0xc0, 0x29, 0x23, 0xab, 0x0d, 0x53, 0x4e, 0x6f],
     [0xd5, 0xdb, 0x37, 0x45, 0xde, 0xfd, 0x8e, 0x2f, 0x03, 0xff, 0x6a, 0x72, 0x6d, 0x6c, 0x5b, 0x51]] ++
    [[0x8d, 0x1b, 0xaf, 0x92, 0xbb, 0xdd, 0xbc, 0x7f, 0x11, 0xd9, 0x5c, 0x41, 0x1f, 0x10, 0x5a, 0xd8],
     [0x0a, 0xc1, 0x31, 0x88, 0xa5, 0xcd, 0x7b, 0xbd, 0x2d, 0x74, 0xd0, 0x12, 0xb8, 0xe5, 0xb4, 0xb0],
     [0x89, 0x69, 0x97, 0x4a, 0x0c, 0x96, 0x77, 0x7e, 0x65, 0xb9, 0xf1, 0x09, 0xc5, 0x6e, 0xc6, 0x84],
     [0x18, 0xf0, 0x7d, 0xec, 0x3a, 0xdc, 0x4d, 0x20, 0x79, 0xee, 0x5f, 0x3e, 0xd7, 0xcb, 0x39, 0x48]] ∧
  Function.Bijective sbox ∧ ∀ x : Byte, sbox x = x ↔ x = 0xab

/-- R9: rotl moves bit `k` to bit `(k + n) mod 32`. -/
def Obligations.RotationMovesBits : Prop :=
  ∀ (w : Word) (n k : Nat), 0 < n → n < 32 → k < 32 → (rotl w n).getLsbD ((k + n) % 32) = w.getLsbD k

/-- R69: each lane of tau is the S-box on its own byte; tau is a bijection; the worked examples. -/
def Obligations.TauWorksByLanes : Prop :=
  (∀ a : Word, byte0 (tau a) = sbox (byte0 a) ∧ byte1 (tau a) = sbox (byte1 a) ∧ byte2 (tau a) = sbox (byte2 a) ∧
    byte3 (tau a) = sbox (byte3 a)) ∧
  Function.Bijective tau ∧
  tau 0xf002c39e = 0x18e992b1 ∧ tau 0x00000000 = 0xd6d6d6d6 ∧ tau 0xffffffff = 0x48484848

/-- R70: L, linear over XOR, commuting with rotation, with its worked example and corner cases. -/
def Obligations.LIsLinearAndCommutesWithRotation : Prop :=
  (∀ b : Word, lRound b = b ^^^ rotl b 2 ^^^ rotl b 10 ^^^ rotl b 18 ^^^ rotl b 24) ∧
  (∀ a b : Word, lRound (a ^^^ b) = lRound a ^^^ lRound b) ∧
  (∀ (b : Word) (n : Nat), 0 < n → n < 32 → lRound (rotl b n) = rotl (lRound b) n) ∧
  lRound 0x18e992b1 = 0x26d99622 ∧ lRound 0 = 0 ∧ lRound 0xffffffff = 0xffffffff ∧ lRound 0x00000001 = 0x01040405 ∧
  lRound 0x80000000 = 0x80820202

/-- R87: L', linear over XOR, with its worked example and corner cases. -/
def Obligations.LPrimeIsLinear : Prop :=
  (∀ b : Word, lKey b = b ^^^ rotl b 13 ^^^ rotl b 23) ∧
  (∀ a b : Word, lKey (a ^^^ b) = lKey a ^^^ lKey b) ∧
  lKey 0x8ad24122 = 0x53b37958 ∧ lKey 0 = 0 ∧ lKey 0xffffffff = 0xffffffff ∧ lKey 0x00000001 = 0x00802001 ∧
  lKey 0x80000000 = 0x80401000

/-- R71, R72: the mixing function of the rounds, and one round, with their worked examples. -/
def Obligations.RoundMixesAndShifts : Prop :=
  (∀ a : Word, tRound a = lRound (tau a)) ∧
  tRound 0xf002c39e = 0x26d99622 ∧ tRound 0x00000000 = 0x5b5b5b5b ∧ tRound 0xffffffff = 0x21212121 ∧
  tRound 0x01234567 = 0x6ef180c9 ∧
  (∀ rk x0 x1 x2 x3 : Word, roundF rk ⟨x0, x1, x2, x3⟩ = ⟨x1, x2, x3, x0 ^^^ tRound (x1 ^^^ x2 ^^^ x3 ^^^ rk)⟩) ∧
  (0x89abcdef ^^^ 0xfedcba98 ^^^ 0x76543210 ^^^ 0xf12186f9 : Word) = 0xf002c39e ∧
  roundF 0xf12186f9 ⟨0x01234567, 0x89abcdef, 0xfedcba98, 0x76543210⟩ = ⟨0x89abcdef, 0xfedcba98, 0x76543210, 0x27fad345⟩

/-- R73: a round is a bijection whose inverse is Rev . F . Rev. -/
def Obligations.RoundIsInvertible : Prop :=
  ∀ rk : Word, Function.Bijective (roundF rk) ∧
    ∀ x : Quad, rev (roundF rk (rev (roundF rk x))) = x ∧ roundF rk (rev (roundF rk (rev x))) = x

/-- R74, R75, R76: Enc and Dec are the sequence X[0..35], with the subkeys in ascending and in descending order, and give the
source's vector (95_test_vectors.md section 1). -/
def Obligations.CryptFollowsRecurrence : Prop :=
  (∀ (rk : Vector Word 32) (b : List Byte), b.length = 16 → IsEnc rk b (encBlock rk b) ∧ IsDec rk b (decBlock rk b)) ∧
  encBlock (expand exampleBytes) exampleBytes = exampleCiphertext ∧
  decBlock (expand exampleBytes) exampleCiphertext = exampleBytes

/-- R77: decryption inverts encryption and the reverse, for every schedule and every block. -/
def Obligations.DecryptInvertsEncrypt : Prop :=
  ∀ (rk : Vector Word 32) (b : List Byte), b.length = 16 →
    decBlock rk (encBlock rk b) = b ∧ encBlock rk (decBlock rk b) = b

/-- R80: CENC with `len = 16` on a slot that holds a schedule completes, with its result (R74, R75), the fixed vector and its
frame. -/
def Obligations.CencCompletes : Prop :=
  ∀ (s : State) (sl : Slot), s.rkv sl = true → ∃ t, exec (.cenc sl 16) s = .next t ∧
    memRead t .obuf 0 16 = encBlock (s.rk sl) (memRead s .ibuf 0 16) ∧
    IsEnc (s.rk sl) (memRead s .ibuf 0 16) (memRead t .obuf 0 16) ∧
    (s.rk sl = expand exampleBytes → memRead s .ibuf 0 16 = exampleBytes → memRead t .obuf 0 16 = exampleCiphertext) ∧
    SucceededWith t 16 ∧ SameSlots s t ∧ SameBytesBut 16 s t ∧ SameRest s t

/-- R82: CDEC with `len = 16` on a slot that holds a schedule completes, with its result (R74, R76), the fixed vector and its
frame. -/
def Obligations.CdecCompletes : Prop :=
  ∀ (s : State) (sl : Slot), s.rkv sl = true → ∃ t, exec (.cdec sl 16) s = .next t ∧
    memRead t .obuf 0 16 = decBlock (s.rk sl) (memRead s .ibuf 0 16) ∧
    IsDec (s.rk sl) (memRead s .ibuf 0 16) (memRead t .obuf 0 16) ∧
    (s.rk sl = expand exampleBytes → memRead s .ibuf 0 16 = exampleCiphertext → memRead t .obuf 0 16 = exampleBytes) ∧
    SucceededWith t 16 ∧ SameSlots s t ∧ SameBytesBut 16 s t ∧ SameRest s t

/-- R77, R152, on the machine: the host encrypts, reads the result, feeds it back, decrypts and reads its block again. -/
def Obligations.EncryptThenDecryptRun : Prop :=
  ∀ (s : State) (sl : Slot) (rest : List HostMove), s.Inv → s.rkv sl = true →
    s.moves = Listing.command (.cenc sl 16) ++ Listing.get .obuf 0 16 ++
      Listing.put .ibuf 0 (encBlock (s.rk sl) (memRead s .ibuf 0 16)) ++ Listing.command (.cdec sl 16) ++
      Listing.get .obuf 0 16 ++ rest →
    ∃ t : State, Sys2Proof.core.run 50 s = .next t ∧ t.moves = rest ∧
      t.answers = s.answers ++ (encBlock (s.rk sl) (memRead s .ibuf 0 16)).map Answer.byte ++
        (memRead s .ibuf 0 16).map Answer.byte

/-! ### The tweakable mode (42_tweakable_mode.md) -/

/-- R101: doubling byte by byte and as a number, with the worked examples. -/
def Obligations.DoublingShiftsAndReduces : Prop :=
  (∀ t : List Byte, t.length = 16 → (dbl t).length = 16 ∧
    (∀ k, k < 16 → (dbl t).getD k 0 = (t.getD k 0 <<< 1) ^^^
      (if k = 0 then (if (t.getD 15 0).msb then 0x87 else 0) else if (t.getD (k - 1) 0).msb then 1 else 0)) ∧
    leNumber (dbl t) = (2 * leNumber t % 2 ^ 128) ^^^ (if 2 ^ 127 ≤ leNumber t then 0x87 else 0)) ∧
  dbl [1, 0, 0, 0, 0, 0, 0, 0, 0, 0, 0, 0, 0, 0, 0, 0] = [2, 0, 0, 0, 0, 0, 0, 0, 0, 0, 0, 0, 0, 0, 0, 0] ∧
  dbl [0x80, 0, 0, 0, 0, 0, 0, 0, 0, 0, 0, 0, 0, 0, 0, 0] = [0, 1, 0, 0, 0, 0, 0, 0, 0, 0, 0, 0, 0, 0, 0, 0] ∧
  dbl [0, 0, 0, 0, 0, 0, 0, 0, 0, 0, 0, 0, 0, 0, 0, 0x80] = [0x87, 0, 0, 0, 0, 0, 0, 0, 0, 0, 0, 0, 0, 0, 0, 0] ∧
  dbl (List.replicate 16 0xff) = 0x79 :: List.replicate 15 0xff ∧
  dbl (List.replicate 16 0) = List.replicate 16 0 ∧
  dbl [0x87, 0, 0, 0, 0, 0, 0, 0, 0, 0, 0, 0, 0, 0, 0, 0x80] = [0x89, 1, 0, 0, 0, 0, 0, 0, 0, 0, 0, 0, 0, 0, 0, 0]

/-- R103: doubling is linear and a bijection on 16-byte strings, with the inverse the rule gives; no mask of a non-zero T0 is
zero. -/
def Obligations.DoublingIsLinearBijection : Prop :=
  (∀ a b : List Byte, a.length = 16 → b.length = 16 → dbl (xorBytes a b) = xorBytes (dbl a) (dbl b)) ∧
  dbl (List.replicate 16 0) = List.replicate 16 0 ∧
  (∀ u : List Byte, u.length = 16 → ∃! t : List Byte, t.length = 16 ∧ dbl t = u) ∧
  (∀ t : List Byte, t.length = 16 → leNumber t =
    if (leNumber (dbl t)).testBit 0 then ((leNumber (dbl t) ^^^ 0x87) >>> 1) ||| 2 ^ 127 else leNumber (dbl t) >>> 1) ∧
  (∀ (t : List Byte) (j : Nat), t.length = 16 → maskAt t j = List.replicate 16 0 → t = List.replicate 16 0)

/-- R104: mask-cipher-mask, and that the two directions undo each other. -/
def Obligations.XexDirectionsAreInverse : Prop :=
  ∀ (rk : Vector Word 32) (m b : List Byte), m.length = 16 → b.length = 16 →
    xex .enc rk m b = xorBytes (encBlock rk (xorBytes b m)) m ∧ xex .dec rk m b = xorBytes (decBlock rk (xorBytes b m)) m ∧
    xex .dec rk m (xex .enc rk m b) = b ∧ xex .enc rk m (xex .dec rk m b) = b

/-- R114: the mode's round trip, for every length from 16 on, stealing or not. -/
def Obligations.ModeRoundTrip : Prop :=
  ∀ (rkD rkT : Vector Word 32) (twk p : List Byte), twk.length = 16 → 16 ≤ p.length →
    process .dec rkD rkT twk (process .enc rkD rkT twk p) = p ∧ process .enc rkD rkT twk (process .dec rkD rkT twk p) = p

/-- R117 (with R106 to R111): MENC completes on every legal length, with its frame. -/
def Obligations.MencCompletes : Prop :=
  ∀ (s : State) (len : Nat), s.rkvD = true → s.rkvT = true → 16 ≤ len → len ≤ s.maxLen →
    ∃ t, exec (.menc len) s = .next t ∧ HoldsModeOutput .enc len s t ∧ SucceededWith t len ∧
      SameSlots s t ∧ SameBytesBut len s t ∧ SameRest s t

/-- R119 (with R106 to R112): MDEC completes on every legal length, with its frame. -/
def Obligations.MdecCompletes : Prop :=
  ∀ (s : State) (len : Nat), s.rkvD = true → s.rkvT = true → 16 ≤ len → len ≤ s.maxLen →
    ∃ t, exec (.mdec len) s = .next t ∧ HoldsModeOutput .dec len s t ∧ SucceededWith t len ∧
      SameSlots s t ∧ SameBytesBut len s t ∧ SameRest s t

/-- R120: the result of MENC and MDEC depends only on the two schedules, TWK and the `len` input bytes. -/
def Obligations.ModeResultDependsOnOperandsOnly : Prop :=
  ∀ (s s' : State) (len : Nat), s.rkvD = true → s.rkvT = true → s'.rkvD = true → s'.rkvT = true →
    16 ≤ len → len ≤ s.maxLen → len ≤ s'.maxLen → s'.rkD = s.rkD → s'.rkT = s.rkT →
    memRead s' .twk 0 16 = memRead s .twk 0 16 → memRead s' .ibuf 0 len = memRead s .ibuf 0 len →
    ∀ i ∈ [Instr.menc len, .mdec len], ∃ t t', exec i s = .next t ∧ exec i s' = .next t' ∧
      memRead t' .obuf 0 len = memRead t .obuf 0 len

/-- R114, on the machine: the host encrypts `len` bytes, feeds the result back, decrypts and reads its bytes again. -/
def Obligations.ModeEncryptThenDecryptRun : Prop :=
  ∀ (s : State) (len : Nat) (rest : List HostMove), s.Inv → s.rkvD = true → s.rkvT = true → 16 ≤ len → len ≤ s.maxLen →
    s.moves = Listing.command (.menc len) ++
      Listing.put .ibuf 0 (process .enc s.rkD s.rkT (memRead s .twk 0 16) (memRead s .ibuf 0 len)) ++
      Listing.command (.mdec len) ++ Listing.get .obuf 0 len ++ rest →
    ∃ t : State, Sys2Proof.core.run (2 * len + 2) s = .next t ∧ t.moves = rest ∧
      t.answers = s.answers ++ (memRead s .ibuf 0 len).map Answer.byte

/-! ### The whole machine -/

/-- R20, R21, R29, D30: every command word completes; it changes no byte of IBUF or TWK, no byte of OBUF from OLEN upward, and
nothing of MAXLEN, the host's moves or the answers. -/
def Obligations.CommandsWriteOnlyTheirResult : Prop :=
  ∀ (s : State) (w : Word), ∃ t, runWord w s = .next t ∧ SameBytesBut t.olen.toNat s t ∧ SameRest s t

/-- The invariant holds at reset (R5, R30; the canonical form is the model's, log entry 10). -/
def Obligations.ResetMeetsInvariant : Prop := State.reset.Inv

/-- Every step keeps the invariant (R5, R25, R35, R127; the canonical form is the model's, log entry 10). -/
def Obligations.StepKeepsInvariant : Prop := ∀ s t : State, s.Inv → step s = .next t → t.Inv

/-- R17, R28: the subkeys of an empty slot never matter: steps from two states that differ only there end alike.
For a reset move the buffers agree by the model's choice, not by a rule: R30 and R146 leave them unspecified, and log entries 7
and 9 (DESIGN CHOICE, unsafe for such a claim) draw each byte from the reset count, its place and the byte before alone. -/
def Obligations.EmptySlotSubkeysAreNeverRead : Prop :=
  ∀ s s' : State, SameButDeadSubkeys s s' → AlikeOutcomes SameButDeadSubkeys (step s) (step s')

/-- R16, R139: the host cannot read subkeys back: no access but a CMD write depends on them.
The statement admits a reset move too. That the buffers after it do not depend on subkeys is the model's choice, not a rule:
R30 and R146 leave them unspecified, and log entries 7 and 9 (DESIGN CHOICE, unsafe for such a claim) draw each byte from the
reset count, its place and the byte before alone. -/
def Obligations.HostCannotReadSubkeys : Prop :=
  ∀ (s s' : State) (mv : HostMove) (rest : List HostMove), SameButSubkeys s s' → s.moves = mv :: rest →
    (∀ w, mv ≠ .writeCsr 0 w) → AlikeOutcomes SameButSubkeys (step s) (step s')

/-- R145: what reset leaves, at power-on and between two moves. -/
def Obligations.ResetEmptiesSlots : Prop :=
  (∀ sl, State.reset.rkv sl = false) ∧ State.reset.err = .none ∧ State.reset.olen = 0 ∧
  statusWord State.reset = 0 ∧ olenWord State.reset = 0 ∧
  (∀ (s : State) (rest : List HostMove), s.moves = .reset :: rest → ∃ t, step s = .next t ∧
    (∀ sl, t.rkv sl = false) ∧ t.err = .none ∧ t.olen = 0 ∧ statusWord t = 0 ∧ olenWord t = 0 ∧ t.moves = rest)
end

