-- ==== Sys2Proof/Laws/State.lean ====
section
/-! SUPPORT. One lemma per field per update of State: what each named update leaves and what it writes. -/

namespace Sys2Proof.Machine

variable (s : State)

/-! ### setStatus -/

@[simp] theorem setStatus_rkD (e : ErrCode) (n : BitVec 24) : (s.setStatus e n).rkD = s.rkD := rfl
@[simp] theorem setStatus_rkT (e : ErrCode) (n : BitVec 24) : (s.setStatus e n).rkT = s.rkT := rfl
@[simp] theorem setStatus_rkvD (e : ErrCode) (n : BitVec 24) : (s.setStatus e n).rkvD = s.rkvD := rfl
@[simp] theorem setStatus_rkvT (e : ErrCode) (n : BitVec 24) : (s.setStatus e n).rkvT = s.rkvT := rfl
@[simp] theorem setStatus_twk (e : ErrCode) (n : BitVec 24) : (s.setStatus e n).twk = s.twk := rfl
@[simp] theorem setStatus_ibuf (e : ErrCode) (n : BitVec 24) : (s.setStatus e n).ibuf = s.ibuf := rfl
@[simp] theorem setStatus_obuf (e : ErrCode) (n : BitVec 24) : (s.setStatus e n).obuf = s.obuf := rfl
@[simp] theorem setStatus_err (e : ErrCode) (n : BitVec 24) : (s.setStatus e n).err = e := rfl
@[simp] theorem setStatus_olen (e : ErrCode) (n : BitVec 24) : (s.setStatus e n).olen = n := rfl
@[simp] theorem setStatus_maxLen (e : ErrCode) (n : BitVec 24) : (s.setStatus e n).maxLen = s.maxLen := rfl
@[simp] theorem setStatus_resets (e : ErrCode) (n : BitVec 24) : (s.setStatus e n).resets = s.resets := rfl
@[simp] theorem setStatus_moves (e : ErrCode) (n : BitVec 24) : (s.setStatus e n).moves = s.moves := rfl
@[simp] theorem setStatus_answers (e : ErrCode) (n : BitVec 24) : (s.setStatus e n).answers = s.answers := rfl

/-! ### setMoves -/

@[simp] theorem setMoves_rkD (ms : List HostMove) : (s.setMoves ms).rkD = s.rkD := rfl
@[simp] theorem setMoves_rkT (ms : List HostMove) : (s.setMoves ms).rkT = s.rkT := rfl
@[simp] theorem setMoves_rkvD (ms : List HostMove) : (s.setMoves ms).rkvD = s.rkvD := rfl
@[simp] theorem setMoves_rkvT (ms : List HostMove) : (s.setMoves ms).rkvT = s.rkvT := rfl
@[simp] theorem setMoves_twk (ms : List HostMove) : (s.setMoves ms).twk = s.twk := rfl
@[simp] theorem setMoves_ibuf (ms : List HostMove) : (s.setMoves ms).ibuf = s.ibuf := rfl
@[simp] theorem setMoves_obuf (ms : List HostMove) : (s.setMoves ms).obuf = s.obuf := rfl
@[simp] theorem setMoves_err (ms : List HostMove) : (s.setMoves ms).err = s.err := rfl
@[simp] theorem setMoves_olen (ms : List HostMove) : (s.setMoves ms).olen = s.olen := rfl
@[simp] theorem setMoves_maxLen (ms : List HostMove) : (s.setMoves ms).maxLen = s.maxLen := rfl
@[simp] theorem setMoves_resets (ms : List HostMove) : (s.setMoves ms).resets = s.resets := rfl
@[simp] theorem setMoves_moves (ms : List HostMove) : (s.setMoves ms).moves = ms := rfl
@[simp] theorem setMoves_answers (ms : List HostMove) : (s.setMoves ms).answers = s.answers := rfl

/-! ### addAnswer -/

@[simp] theorem addAnswer_rkD (a : Answer) : (s.addAnswer a).rkD = s.rkD := rfl
@[simp] theorem addAnswer_rkT (a : Answer) : (s.addAnswer a).rkT = s.rkT := rfl
@[simp] theorem addAnswer_rkvD (a : Answer) : (s.addAnswer a).rkvD = s.rkvD := rfl
@[simp] theorem addAnswer_rkvT (a : Answer) : (s.addAnswer a).rkvT = s.rkvT := rfl
@[simp] theorem addAnswer_twk (a : Answer) : (s.addAnswer a).twk = s.twk := rfl
@[simp] theorem addAnswer_ibuf (a : Answer) : (s.addAnswer a).ibuf = s.ibuf := rfl
@[simp] theorem addAnswer_obuf (a : Answer) : (s.addAnswer a).obuf = s.obuf := rfl
@[simp] theorem addAnswer_err (a : Answer) : (s.addAnswer a).err = s.err := rfl
@[simp] theorem addAnswer_olen (a : Answer) : (s.addAnswer a).olen = s.olen := rfl
@[simp] theorem addAnswer_maxLen (a : Answer) : (s.addAnswer a).maxLen = s.maxLen := rfl
@[simp] theorem addAnswer_resets (a : Answer) : (s.addAnswer a).resets = s.resets := rfl
@[simp] theorem addAnswer_moves (a : Answer) : (s.addAnswer a).moves = s.moves := rfl
@[simp] theorem addAnswer_answers (a : Answer) : (s.addAnswer a).answers = s.answers ++ [a] := rfl

/-! ### setSlot -/

@[simp] theorem setSlot_rkD (sl : Slot) (k : Vector Word 32) (v : Bool) :
    (s.setSlot sl k v).rkD = if sl = .D then k else s.rkD := by cases sl <;> rfl
@[simp] theorem setSlot_rkT (sl : Slot) (k : Vector Word 32) (v : Bool) :
    (s.setSlot sl k v).rkT = if sl = .T then k else s.rkT := by cases sl <;> rfl
@[simp] theorem setSlot_rkvD (sl : Slot) (k : Vector Word 32) (v : Bool) :
    (s.setSlot sl k v).rkvD = if sl = .D then v else s.rkvD := by cases sl <;> rfl
@[simp] theorem setSlot_rkvT (sl : Slot) (k : Vector Word 32) (v : Bool) :
    (s.setSlot sl k v).rkvT = if sl = .T then v else s.rkvT := by cases sl <;> rfl
@[simp] theorem setSlot_twk (sl : Slot) (k : Vector Word 32) (v : Bool) : (s.setSlot sl k v).twk = s.twk := by
  cases sl <;> rfl
@[simp] theorem setSlot_ibuf (sl : Slot) (k : Vector Word 32) (v : Bool) : (s.setSlot sl k v).ibuf = s.ibuf := by
  cases sl <;> rfl
@[simp] theorem setSlot_obuf (sl : Slot) (k : Vector Word 32) (v : Bool) : (s.setSlot sl k v).obuf = s.obuf := by
  cases sl <;> rfl
@[simp] theorem setSlot_err (sl : Slot) (k : Vector Word 32) (v : Bool) : (s.setSlot sl k v).err = s.err := by
  cases sl <;> rfl
@[simp] theorem setSlot_olen (sl : Slot) (k : Vector Word 32) (v : Bool) : (s.setSlot sl k v).olen = s.olen := by
  cases sl <;> rfl
@[simp] theorem setSlot_maxLen (sl : Slot) (k : Vector Word 32) (v : Bool) : (s.setSlot sl k v).maxLen = s.maxLen := by
  cases sl <;> rfl
@[simp] theorem setSlot_resets (sl : Slot) (k : Vector Word 32) (v : Bool) : (s.setSlot sl k v).resets = s.resets := by
  cases sl <;> rfl
@[simp] theorem setSlot_moves (sl : Slot) (k : Vector Word 32) (v : Bool) : (s.setSlot sl k v).moves = s.moves := by
  cases sl <;> rfl
@[simp] theorem setSlot_answers (sl : Slot) (k : Vector Word 32) (v : Bool) : (s.setSlot sl k v).answers = s.answers := by
  cases sl <;> rfl

/-! ### setMem -/

@[simp] theorem setMem_rkD (sp : Space) (m : Memory) : (s.setMem sp m).rkD = s.rkD := by cases sp <;> rfl
@[simp] theorem setMem_rkT (sp : Space) (m : Memory) : (s.setMem sp m).rkT = s.rkT := by cases sp <;> rfl
@[simp] theorem setMem_rkvD (sp : Space) (m : Memory) : (s.setMem sp m).rkvD = s.rkvD := by cases sp <;> rfl
@[simp] theorem setMem_rkvT (sp : Space) (m : Memory) : (s.setMem sp m).rkvT = s.rkvT := by cases sp <;> rfl
@[simp] theorem setMem_twk (sp : Space) (m : Memory) : (s.setMem sp m).twk = if sp = .twk then m else s.twk := by
  cases sp <;> rfl
@[simp] theorem setMem_ibuf (sp : Space) (m : Memory) : (s.setMem sp m).ibuf = if sp = .ibuf then m else s.ibuf := by
  cases sp <;> rfl
@[simp] theorem setMem_obuf (sp : Space) (m : Memory) : (s.setMem sp m).obuf = if sp = .obuf then m else s.obuf := by
  cases sp <;> rfl
@[simp] theorem setMem_err (sp : Space) (m : Memory) : (s.setMem sp m).err = s.err := by cases sp <;> rfl
@[simp] theorem setMem_olen (sp : Space) (m : Memory) : (s.setMem sp m).olen = s.olen := by cases sp <;> rfl
@[simp] theorem setMem_maxLen (sp : Space) (m : Memory) : (s.setMem sp m).maxLen = s.maxLen := by cases sp <;> rfl
@[simp] theorem setMem_resets (sp : Space) (m : Memory) : (s.setMem sp m).resets = s.resets := by cases sp <;> rfl
@[simp] theorem setMem_moves (sp : Space) (m : Memory) : (s.setMem sp m).moves = s.moves := by cases sp <;> rfl
@[simp] theorem setMem_answers (sp : Space) (m : Memory) : (s.setMem sp m).answers = s.answers := by cases sp <;> rfl

/-! ### memWrite -/

@[simp] theorem memWrite_rkD (sp : Space) (a : Nat) (v : List Byte) : (memWrite sp a v s).rkD = s.rkD := by
  simp [memWrite]
@[simp] theorem memWrite_rkT (sp : Space) (a : Nat) (v : List Byte) : (memWrite sp a v s).rkT = s.rkT := by
  simp [memWrite]
@[simp] theorem memWrite_rkvD (sp : Space) (a : Nat) (v : List Byte) : (memWrite sp a v s).rkvD = s.rkvD := by
  simp [memWrite]
@[simp] theorem memWrite_rkvT (sp : Space) (a : Nat) (v : List Byte) : (memWrite sp a v s).rkvT = s.rkvT := by
  simp [memWrite]
@[simp] theorem memWrite_twk (sp : Space) (a : Nat) (v : List Byte) :
    (memWrite sp a v s).twk = if sp = .twk then Memory.writeBytes (s.mem sp) a v else s.twk := by
  simp [memWrite]
@[simp] theorem memWrite_ibuf (sp : Space) (a : Nat) (v : List Byte) :
    (memWrite sp a v s).ibuf = if sp = .ibuf then Memory.writeBytes (s.mem sp) a v else s.ibuf := by
  simp [memWrite]
@[simp] theorem memWrite_obuf (sp : Space) (a : Nat) (v : List Byte) :
    (memWrite sp a v s).obuf = if sp = .obuf then Memory.writeBytes (s.mem sp) a v else s.obuf := by
  simp [memWrite]
@[simp] theorem memWrite_err (sp : Space) (a : Nat) (v : List Byte) : (memWrite sp a v s).err = s.err := by
  simp [memWrite]
@[simp] theorem memWrite_olen (sp : Space) (a : Nat) (v : List Byte) : (memWrite sp a v s).olen = s.olen := by
  simp [memWrite]
@[simp] theorem memWrite_maxLen (sp : Space) (a : Nat) (v : List Byte) : (memWrite sp a v s).maxLen = s.maxLen := by
  simp [memWrite]
@[simp] theorem memWrite_resets (sp : Space) (a : Nat) (v : List Byte) : (memWrite sp a v s).resets = s.resets := by
  simp [memWrite]
@[simp] theorem memWrite_moves (sp : Space) (a : Nat) (v : List Byte) : (memWrite sp a v s).moves = s.moves := by
  simp [memWrite]
@[simp] theorem memWrite_answers (sp : Space) (a : Nat) (v : List Byte) : (memWrite sp a v s).answers = s.answers := by
  simp [memWrite]

/-! ### writeByte -/

@[simp] theorem writeByte_rkD (sp : Space) (off : Nat) (b : Byte) : (s.writeByte sp off b).rkD = s.rkD := by
  simp [State.writeByte]
@[simp] theorem writeByte_rkT (sp : Space) (off : Nat) (b : Byte) : (s.writeByte sp off b).rkT = s.rkT := by
  simp [State.writeByte]
@[simp] theorem writeByte_rkvD (sp : Space) (off : Nat) (b : Byte) : (s.writeByte sp off b).rkvD = s.rkvD := by
  simp [State.writeByte]
@[simp] theorem writeByte_rkvT (sp : Space) (off : Nat) (b : Byte) : (s.writeByte sp off b).rkvT = s.rkvT := by
  simp [State.writeByte]
@[simp] theorem writeByte_twk (sp : Space) (off : Nat) (b : Byte) :
    (s.writeByte sp off b).twk = if sp = .twk then Memory.write (s.mem sp) off b else s.twk := by
  simp [State.writeByte]
@[simp] theorem writeByte_ibuf (sp : Space) (off : Nat) (b : Byte) :
    (s.writeByte sp off b).ibuf = if sp = .ibuf then Memory.write (s.mem sp) off b else s.ibuf := by
  simp [State.writeByte]
@[simp] theorem writeByte_obuf (sp : Space) (off : Nat) (b : Byte) :
    (s.writeByte sp off b).obuf = if sp = .obuf then Memory.write (s.mem sp) off b else s.obuf := by
  simp [State.writeByte]
@[simp] theorem writeByte_err (sp : Space) (off : Nat) (b : Byte) : (s.writeByte sp off b).err = s.err := by
  simp [State.writeByte]
@[simp] theorem writeByte_olen (sp : Space) (off : Nat) (b : Byte) : (s.writeByte sp off b).olen = s.olen := by
  simp [State.writeByte]
@[simp] theorem writeByte_maxLen (sp : Space) (off : Nat) (b : Byte) : (s.writeByte sp off b).maxLen = s.maxLen := by
  simp [State.writeByte]
@[simp] theorem writeByte_resets (sp : Space) (off : Nat) (b : Byte) : (s.writeByte sp off b).resets = s.resets := by
  simp [State.writeByte]
@[simp] theorem writeByte_moves (sp : Space) (off : Nat) (b : Byte) : (s.writeByte sp off b).moves = s.moves := by
  simp [State.writeByte]
@[simp] theorem writeByte_answers (sp : Space) (off : Nat) (b : Byte) : (s.writeByte sp off b).answers = s.answers := by
  simp [State.writeByte]

/-! ### applyReset -/

@[simp] theorem applyReset_rkD : (applyReset s).rkD = drawSubkeys (s.resets + 1) .D s.rkD := rfl
@[simp] theorem applyReset_rkT : (applyReset s).rkT = drawSubkeys (s.resets + 1) .T s.rkT := rfl
@[simp] theorem applyReset_rkvD : (applyReset s).rkvD = false := rfl
@[simp] theorem applyReset_rkvT : (applyReset s).rkvT = false := rfl
@[simp] theorem applyReset_twk : (applyReset s).twk = resetMemory (s.resets + 1) .twk s.twk := rfl
@[simp] theorem applyReset_ibuf : (applyReset s).ibuf = resetMemory (s.resets + 1) .ibuf s.ibuf := rfl
@[simp] theorem applyReset_obuf : (applyReset s).obuf = resetMemory (s.resets + 1) .obuf s.obuf := rfl
@[simp] theorem applyReset_err : (applyReset s).err = .none := rfl
@[simp] theorem applyReset_olen : (applyReset s).olen = 0 := rfl
@[simp] theorem applyReset_maxLen : (applyReset s).maxLen = s.maxLen := rfl
@[simp] theorem applyReset_resets : (applyReset s).resets = s.resets + 1 := rfl
@[simp] theorem applyReset_moves : (applyReset s).moves = s.moves := rfl
@[simp] theorem applyReset_answers : (applyReset s).answers = s.answers := rfl

/-! ### The accessors -/

@[simp] theorem mem_setMem (sp sp' : Space) (m : Memory) : (s.setMem sp m).mem sp' = if sp' = sp then m else s.mem sp' := by
  cases sp <;> cases sp' <;> rfl
@[simp] theorem mem_setStatus (e : ErrCode) (n : BitVec 24) (sp : Space) : (s.setStatus e n).mem sp = s.mem sp := by
  cases sp <;> rfl
@[simp] theorem mem_setMoves (ms : List HostMove) (sp : Space) : (s.setMoves ms).mem sp = s.mem sp := by cases sp <;> rfl
@[simp] theorem mem_addAnswer (a : Answer) (sp : Space) : (s.addAnswer a).mem sp = s.mem sp := by cases sp <;> rfl
@[simp] theorem mem_setSlot (sl : Slot) (k : Vector Word 32) (v : Bool) (sp : Space) : (s.setSlot sl k v).mem sp = s.mem sp := by
  cases sl <;> cases sp <;> rfl
@[simp] theorem mem_memWrite (sp sp' : Space) (a : Nat) (v : List Byte) :
    (memWrite sp a v s).mem sp' = if sp' = sp then Memory.writeBytes (s.mem sp) a v else s.mem sp' := by
  simp [memWrite]
@[simp] theorem mem_writeByte (sp sp' : Space) (off : Nat) (b : Byte) :
    (s.writeByte sp off b).mem sp' = if sp' = sp then Memory.write (s.mem sp) off b else s.mem sp' := by
  simp [State.writeByte]
@[simp] theorem mem_applyReset (sp : Space) : (applyReset s).mem sp = resetMemory (s.resets + 1) sp (s.mem sp) := by
  cases sp <;> rfl

@[simp] theorem rk_setMem (sp : Space) (m : Memory) (sl : Slot) : (s.setMem sp m).rk sl = s.rk sl := by
  cases sp <;> cases sl <;> rfl
@[simp] theorem rk_setStatus (e : ErrCode) (n : BitVec 24) (sl : Slot) : (s.setStatus e n).rk sl = s.rk sl := by
  cases sl <;> rfl
@[simp] theorem rk_setMoves (ms : List HostMove) (sl : Slot) : (s.setMoves ms).rk sl = s.rk sl := by cases sl <;> rfl
@[simp] theorem rk_addAnswer (a : Answer) (sl : Slot) : (s.addAnswer a).rk sl = s.rk sl := by cases sl <;> rfl
@[simp] theorem rk_memWrite (sp : Space) (a : Nat) (v : List Byte) (sl : Slot) : (memWrite sp a v s).rk sl = s.rk sl := by
  simp [memWrite]
@[simp] theorem rk_writeByte (sp : Space) (off : Nat) (b : Byte) (sl : Slot) : (s.writeByte sp off b).rk sl = s.rk sl := by
  simp [State.writeByte]
@[simp] theorem rk_setSlot (sl sl' : Slot) (k : Vector Word 32) (v : Bool) :
    (s.setSlot sl k v).rk sl' = if sl' = sl then k else s.rk sl' := by
  cases sl <;> cases sl' <;> rfl

@[simp] theorem rkv_setMem (sp : Space) (m : Memory) (sl : Slot) : (s.setMem sp m).rkv sl = s.rkv sl := by
  cases sp <;> cases sl <;> rfl
@[simp] theorem rkv_setStatus (e : ErrCode) (n : BitVec 24) (sl : Slot) : (s.setStatus e n).rkv sl = s.rkv sl := by
  cases sl <;> rfl
@[simp] theorem rkv_setMoves (ms : List HostMove) (sl : Slot) : (s.setMoves ms).rkv sl = s.rkv sl := by cases sl <;> rfl
@[simp] theorem rkv_addAnswer (a : Answer) (sl : Slot) : (s.addAnswer a).rkv sl = s.rkv sl := by cases sl <;> rfl
@[simp] theorem rkv_memWrite (sp : Space) (a : Nat) (v : List Byte) (sl : Slot) : (memWrite sp a v s).rkv sl = s.rkv sl := by
  simp [memWrite]
@[simp] theorem rkv_writeByte (sp : Space) (off : Nat) (b : Byte) (sl : Slot) : (s.writeByte sp off b).rkv sl = s.rkv sl := by
  simp [State.writeByte]
@[simp] theorem rkv_setSlot (sl sl' : Slot) (k : Vector Word 32) (v : Bool) :
    (s.setSlot sl k v).rkv sl' = if sl' = sl then v else s.rkv sl' := by
  cases sl <;> cases sl' <;> rfl

/-- A space has the same size in states with the same MAXLEN. -/
theorem size_congr {s t : State} (h : t.maxLen = s.maxLen) (sp : Space) : t.size sp = s.size sp := by
  cases sp <;> simp [State.size, h]

/-- A byte reads the same in states with the same buffer and the same draws. -/
theorem readByte_congr {s t : State} {sp : Space} (hm : t.mem sp = s.mem sp) (hr : t.resets = s.resets) (off : Nat) :
    t.readByte sp off = s.readByte sp off := by
  simp [State.readByte, hm, hr]

/-- So does a byte string. -/
theorem memRead_congr {s t : State} {sp : Space} (hm : t.mem sp = s.mem sp) (hr : t.resets = s.resets) (a n : Nat) :
    memRead t sp a n = memRead s sp a n := by
  simp [memRead, readByte_congr hm hr]

/-! ### What is read after an update -/

@[simp] theorem readByte_setStatus (e : ErrCode) (n : BitVec 24) (sp : Space) (off : Nat) :
    (s.setStatus e n).readByte sp off = s.readByte sp off := readByte_congr (by simp) rfl off
@[simp] theorem readByte_setMoves (ms : List HostMove) (sp : Space) (off : Nat) :
    (s.setMoves ms).readByte sp off = s.readByte sp off := readByte_congr (by simp) rfl off
@[simp] theorem readByte_addAnswer (a : Answer) (sp : Space) (off : Nat) :
    (s.addAnswer a).readByte sp off = s.readByte sp off := readByte_congr (by simp) rfl off
@[simp] theorem readByte_setSlot (sl : Slot) (k : Vector Word 32) (v : Bool) (sp : Space) (off : Nat) :
    (s.setSlot sl k v).readByte sp off = s.readByte sp off := readByte_congr (by simp) (by simp) off

@[simp] theorem memRead_setStatus (e : ErrCode) (n : BitVec 24) (sp : Space) (a k : Nat) :
    memRead (s.setStatus e n) sp a k = memRead s sp a k := by simp [memRead]
@[simp] theorem memRead_setMoves (ms : List HostMove) (sp : Space) (a k : Nat) :
    memRead (s.setMoves ms) sp a k = memRead s sp a k := by simp [memRead]
@[simp] theorem memRead_addAnswer (x : Answer) (sp : Space) (a k : Nat) :
    memRead (s.addAnswer x) sp a k = memRead s sp a k := by simp [memRead]
@[simp] theorem memRead_setSlot (sl : Slot) (k : Vector Word 32) (v : Bool) (sp : Space) (a n : Nat) :
    memRead (s.setSlot sl k v) sp a n = memRead s sp a n := by simp [memRead]

end Sys2Proof.Machine
end

