-- ==== Sys2Proof/Laws/Ops.lean ====
section
/-! SUPPORT. What the shared operations do: reading back a write, the canonical form of a buffer, raising and finishing. -/

namespace Sys2Proof.Machine

/-! ### Reading back a write -/

/-- After a write the offset written holds the byte and every other offset what it held. -/
theorem lookup_write (m : Memory) (k : Nat) (v : Byte) (j : Nat) :
    Memory.lookup (Memory.write m k v) j = if j = k then some v else Memory.lookup m j := by
  induction m with
  | nil => simp [Memory.write, Memory.lookup]
  | cons c m ih =>
    obtain ⟨a, b⟩ := c
    simp only [Memory.write]
    split
    · simp [Memory.lookup]
    · split
      · subst_vars
        by_cases hj : j = a <;> simp [Memory.lookup, hj]
      · simp only [Memory.lookup, ih]
        split_ifs <;> simp_all

/-- After a byte string is written from `a` on, offset `j` inside it holds its byte, every other offset what it held. -/
theorem lookup_writeBytes (bs : List Byte) : ∀ (m : Memory) (a j : Nat),
    Memory.lookup (Memory.writeBytes m a bs) j =
      if a ≤ j ∧ j < a + bs.length then bs[j - a]? else Memory.lookup m j := by
  induction bs with
  | nil => intro m a j; simp [Memory.writeBytes]
  | cons b bs ih =>
    intro m a j
    rw [Memory.writeBytes, ih, lookup_write]
    simp only [List.length_cons]
    by_cases h1 : a + 1 ≤ j ∧ j < a + 1 + bs.length
    · rw [if_pos h1, if_pos (by omega), show j - a = (j - (a + 1)) + 1 by omega, List.getElem?_cons_succ]
    · rw [if_neg h1]
      by_cases h2 : j = a
      · subst h2; rw [if_pos rfl, if_pos (by omega)]; simp
      · rw [if_neg h2, if_neg (by omega)]

/-- A byte of a state after a byte string was written. -/
theorem readByte_memWrite (s : State) (sp sp' : Space) (a : Nat) (v : List Byte) (off : Nat) :
    (memWrite sp a v s).readByte sp' off =
      if sp' = sp ∧ a ≤ off ∧ off < a + v.length then v.getD (off - a) 0 else s.readByte sp' off := by
  by_cases hs : sp' = sp
  · subst hs
    simp only [State.readByte, mem_memWrite, if_true, lookup_writeBytes, memWrite_resets, true_and]
    by_cases h : a ≤ off ∧ off < a + v.length
    · have hl : off - a < v.length := by omega
      simp [h, hl]
    · simp [h]
  · simp [State.readByte, hs]

/-- A byte of a state after one byte was written. -/
theorem readByte_writeByte (s : State) (sp sp' : Space) (a : Nat) (b : Byte) (off : Nat) :
    (s.writeByte sp a b).readByte sp' off = if sp' = sp ∧ off = a then b else s.readByte sp' off := by
  by_cases hs : sp' = sp
  · subst hs
    by_cases h : off = a <;> simp [State.readByte, lookup_write, h]
  · simp [State.readByte, hs]

@[simp] theorem memRead_length (s : State) (sp : Space) (a n : Nat) : (memRead s sp a n).length = n := by simp [memRead]

/-- Byte `k` of a byte string read from `a` on. -/
theorem memRead_getElem (s : State) (sp : Space) (a n k : Nat) (h : k < (memRead s sp a n).length) :
    (memRead s sp a n)[k] = s.readByte sp (a + k) := by simp [memRead]

/-- Two byte strings that agree byte for byte read the same. -/
theorem memRead_eq {s t : State} {sp sp' : Space} {a b n : Nat}
    (h : ∀ k, k < n → t.readByte sp (a + k) = s.readByte sp' (b + k)) : memRead t sp a n = memRead s sp' b n := by
  simp only [memRead]
  exact List.map_congr_left fun k hk => h k (List.mem_range.mp hk)

/-- Reading back part of what was written. -/
theorem memRead_memWrite (s : State) (sp : Space) (a : Nat) (v : List Byte) (k n : Nat) (h : k + n ≤ v.length) :
    memRead (memWrite sp a v s) sp (a + k) n = (v.drop k).take n := by
  apply List.ext_getElem
  · simp; omega
  · intro i h1 h2
    simp at h1
    rw [memRead_getElem, readByte_memWrite, if_pos ⟨rfl, by omega, by omega⟩]
    have : k + i < v.length := by omega
    simp [show a + k + i - a = k + i by omega, this]

/-- Reading back all that was written. -/
theorem memRead_memWrite_all (s : State) (sp : Space) (a : Nat) (v : List Byte) :
    memRead (memWrite sp a v s) sp a v.length = v := by
  simpa using memRead_memWrite s sp a v 0 v.length (by simp)

/-- Another space reads as before. -/
theorem memRead_memWrite_other (s : State) {sp sp' : Space} (h : sp' ≠ sp) (a : Nat) (v : List Byte) (b n : Nat) :
    memRead (memWrite sp a v s) sp' b n = memRead s sp' b n :=
  memRead_congr (by simp [h]) (by simp) b n

/-! ### The canonical form -/

/-- The offsets listed after a write. -/
theorem mem_write {m : Memory} {k : Nat} {v : Byte} {c : Host.Cell} (h : c ∈ Memory.write m k v) :
    c = (k, v) ∨ c ∈ m := by
  induction m with
  | nil => simpa [Memory.write] using h
  | cons d m ih =>
    obtain ⟨a, b⟩ := d
    simp only [Memory.write] at h
    split at h
    · simpa using h
    · split at h
      · rcases List.mem_cons.mp h with h | h
        · exact .inl h
        · exact .inr (List.mem_cons_of_mem _ h)
      · rcases List.mem_cons.mp h with h | h
        · exact .inr (h ▸ List.mem_cons_self)
        · rcases ih h with h | h
          · exact .inl h
          · exact .inr (List.mem_cons_of_mem _ h)

/-- A write keeps the offsets rising. -/
theorem write_rising {m : Memory} (h : m.Pairwise (fun c d => c.1 < d.1)) (k : Nat) (v : Byte) :
    (Memory.write m k v).Pairwise (fun c d => c.1 < d.1) := by
  induction m with
  | nil => simp [Memory.write]
  | cons c m ih =>
    obtain ⟨a, b⟩ := c
    have hm := List.pairwise_cons.mp h
    simp only [Memory.write]
    split
    · rename_i hk
      refine List.pairwise_cons.mpr ⟨?_, h⟩
      intro d hd
      rcases List.mem_cons.mp hd with rfl | hd
      · exact hk
      · exact Nat.lt_trans hk (hm.1 d hd)
    · split
      · rename_i hk
        subst hk
        exact List.pairwise_cons.mpr ⟨hm.1, hm.2⟩
      · refine List.pairwise_cons.mpr ⟨?_, ih hm.2⟩
        intro d hd
        rcases mem_write hd with rfl | hd
        · simp only; omega
        · exact hm.1 d hd

/-- A write inside the buffer keeps the canonical form. -/
theorem write_wf {n : Nat} {m : Memory} (h : Memory.wf n m) {k : Nat} (hk : k < n) (v : Byte) :
    Memory.wf n (Memory.write m k v) := by
  refine ⟨write_rising h.1 k v, fun c hc => ?_⟩
  rcases mem_write hc with rfl | hc
  · exact hk
  · exact h.2 c hc

/-- So does writing a byte string inside the buffer. -/
theorem writeBytes_wf (bs : List Byte) : ∀ {n : Nat} {m : Memory} {a : Nat}, Memory.wf n m → a + bs.length ≤ n →
    Memory.wf n (Memory.writeBytes m a bs) := by
  induction bs with
  | nil => intro n m a h _; exact h
  | cons b bs ih =>
    intro n m a h ha
    simp only [List.length_cons] at ha
    exact ih (write_wf h (by omega) b) (by omega)

/-- Reset keeps the offsets that are listed. -/
theorem resetMemory_map_fst (n : Nat) (sp : Space) (m : Memory) : (resetMemory n sp m).map Prod.fst = m.map Prod.fst := by
  induction m with
  | nil => rfl
  | cons c m ih => obtain ⟨a, b⟩ := c; simp [resetMemory, ih]

/-- Reset keeps the canonical form. -/
theorem resetMemory_wf {size : Nat} {m : Memory} (h : Memory.wf size m) (n : Nat) (sp : Space) :
    Memory.wf size (resetMemory n sp m) := by
  have hfst := resetMemory_map_fst n sp m
  constructor
  · have h1 : (m.map Prod.fst).Pairwise (· < ·) := List.pairwise_map.mpr h.1
    rw [← hfst] at h1
    exact List.pairwise_map.mp h1
  · intro c hc
    have h1 : c.1 ∈ m.map Prod.fst := hfst ▸ List.mem_map_of_mem hc
    obtain ⟨d, hd, hd1⟩ := List.mem_map.mp h1
    exact hd1 ▸ h.2 d hd

/-- An offset below every listed one is not written. -/
theorem lookup_none_of_lt {m : Memory} {k : Nat} (h : ∀ c ∈ m, k < c.1) : Memory.lookup m k = none := by
  induction m with
  | nil => rfl
  | cons c m ih =>
    obtain ⟨a, b⟩ := c
    have := h (a, b) List.mem_cons_self
    have hne : k ≠ a := by simp only at this; omega
    simp [Memory.lookup, hne, ih fun d hd => h d (List.mem_cons_of_mem _ hd)]

/-- Equal buffers are equal lists: in canonical form the written bytes determine the list. -/
theorem memory_ext : ∀ {m m' : Memory}, m.Pairwise (fun c d => c.1 < d.1) → m'.Pairwise (fun c d => c.1 < d.1) →
    (∀ k, Memory.lookup m k = Memory.lookup m' k) → m = m'
  | [], [], _, _, _ => rfl
  | [], (a, b) :: m', _, _, h => by simpa [Memory.lookup] using h a
  | (a, b) :: m, [], _, _, h => by simpa [Memory.lookup] using h a
  | (a, b) :: m, (a', b') :: m', hm, hm', h => by
    have p := List.pairwise_cons.mp hm
    have p' := List.pairwise_cons.mp hm'
    have haa : a = a' := by
      rcases Nat.lt_trichotomy a a' with hlt | heq | hgt
      · have h1 := h a
        rw [lookup_none_of_lt (m := (a', b') :: m') (by
          intro c hc
          rcases List.mem_cons.mp hc with rfl | hc
          · exact hlt
          · exact Nat.lt_trans hlt (p'.1 c hc))] at h1
        simp [Memory.lookup] at h1
      · exact heq
      · have h1 := h a'
        rw [lookup_none_of_lt (m := (a, b) :: m) (by
          intro c hc
          rcases List.mem_cons.mp hc with rfl | hc
          · exact hgt
          · exact Nat.lt_trans hgt (p.1 c hc))] at h1
        simp [Memory.lookup] at h1
    subst haa
    have hb : b = b' := by simpa [Memory.lookup] using h a
    subst hb
    congr 1
    refine memory_ext p.2 p'.2 fun k => ?_
    by_cases hk : k = a
    · subst hk
      rw [lookup_none_of_lt p.1, lookup_none_of_lt p'.1]
    · simpa [Memory.lookup, hk] using h k

/-! ### Writing the same bytes again -/

/-- A second write of the byte an offset holds, where the first one put it, changes nothing. -/
theorem write_write_same (m : Memory) (k : Nat) (v : Byte) :
    Memory.write (Memory.write m k v) k v = Memory.write m k v := by
  induction m with
  | nil => simp [Memory.write]
  | cons c m ih =>
    obtain ⟨a, b⟩ := c
    by_cases h1 : k < a
    · simp [Memory.write, h1]
    · by_cases h2 : k = a
      · subst h2; simp [Memory.write]
      · simp [Memory.write, h1, h2, ih]

/-- An offset settled at a byte (writing it again changes nothing) stays settled when another offset is written. -/
theorem settled_write {m : Memory} {k j : Nat} {v w : Byte} (h : Memory.write m k v = m) (hj : k ≠ j) :
    Memory.write (Memory.write m j w) k v = Memory.write m j w := by
  induction m with
  | nil => simp [Memory.write] at h
  | cons c m ih =>
    obtain ⟨a, b⟩ := c
    by_cases h1 : k < a
    · simp only [Memory.write, h1, if_true] at h
      have := congrArg List.length h
      simp at this
    · by_cases h2 : k = a
      · subst h2
        simp only [Memory.write, lt_irrefl, if_true, if_false] at h
        have hb : v = b := by simpa using h
        subst hb
        rcases Nat.lt_or_gt_of_ne hj with hlt | hgt
        · simp [Memory.write, hlt.not_gt, Ne.symm hj]
        · simp [Memory.write, hgt, hgt.not_gt, hj]
      · simp only [Memory.write, h1, h2, if_false, List.cons.injEq, true_and] at h
        by_cases h3 : j < a
        · have : ¬ k < j := by omega
          simp [Memory.write, h1, h2, h3, h, this, hj]
        · by_cases h4 : j = a
          · subst h4; simp [Memory.write, h1, h2, h]
          · simp [Memory.write, h1, h2, h3, h4, ih h]

/-- A settled offset below a byte string stays settled when the string is written. -/
theorem settled_writeBytes (bs : List Byte) : ∀ {m : Memory} {k a : Nat} {v : Byte}, Memory.write m k v = m → k < a →
    Memory.write (Memory.writeBytes m a bs) k v = Memory.writeBytes m a bs := by
  induction bs with
  | nil => intro m k a v h _; exact h
  | cons b bs ih => intro m k a v h hk; exact ih (settled_write h (by omega)) (by omega)

/-- Writing the same byte string twice is writing it once. -/
theorem writeBytes_twice (bs : List Byte) : ∀ (m : Memory) (a : Nat),
    Memory.writeBytes (Memory.writeBytes m a bs) a bs = Memory.writeBytes m a bs := by
  induction bs with
  | nil => intro m a; rfl
  | cons b bs ih =>
    intro m a
    show Memory.writeBytes (Memory.write (Memory.writeBytes (Memory.write m a b) (a + 1) bs) a b) (a + 1) bs = _
    rw [settled_writeBytes bs (write_write_same m a b) (by omega), ih]
    rfl

/-! ### How a command ends -/

/-- The one thing `raise` does (R127). -/
@[simp] theorem raise_eq (e : ErrCode) (s : State) : raise e s = .next (s.setStatus e 0) := rfl

/-- The one thing the end of a successful command does. -/
@[simp] theorem finish_eq (n : Nat) (s : State) : finish n s = .next (s.setStatus .none (BitVec.ofNat 24 n)) := rfl

end Sys2Proof.Machine
end

