-- ==== Sys2Proof/Laws/Datapath.lean ====
section
/-! SUPPORT. Lengths of the byte strings the datapath makes, and the two descriptions of the mask sequence. -/

namespace Sys2Proof.Machine

@[simp] theorem bytes_length (q : Quad) : (bytes q).length = 16 := by simp [bytes, bytesOfWord]

@[simp] theorem crypt_length (k : List Word) (b : List Byte) : (crypt k b).length = 16 := by simp [crypt]

@[simp] theorem encBlock_length (rk : Vector Word 32) (b : List Byte) : (encBlock rk b).length = 16 := by simp [encBlock]

@[simp] theorem decBlock_length (rk : Vector Word 32) (b : List Byte) : (decBlock rk b).length = 16 := by simp [decBlock]

@[simp] theorem xorBytes_length (a b : List Byte) : (xorBytes a b).length = min a.length b.length := by simp [xorBytes]

@[simp] theorem cipherCall_length (dir : Dir) (rk : Vector Word 32) (b : List Byte) : (cipherCall dir rk b).length = 16 := by
  cases dir <;> simp [cipherCall]

@[simp] theorem shiftBytes_length (t : List Byte) : ∀ c, (shiftBytes c t).1.length = t.length := by
  induction t with
  | nil => intro c; rfl
  | cons b t ih => intro c; simp [shiftBytes, ih]

@[simp] theorem reduce_length (u : List Byte) : (reduce u).length = u.length := by cases u <;> simp [reduce]

@[simp] theorem dbl_length (t : List Byte) : (dbl t).length = t.length := by
  simp only [dbl]
  split <;> simp

@[simp] theorem maskAt_length (t : List Byte) (j : Nat) : (maskAt t j).length = t.length := by
  induction j with
  | zero => rfl
  | succ j ih => simp [maskAt, ih]

@[simp] theorem masks_length (n : Nat) : ∀ m, (masks n m).length = n := by
  induction n with
  | zero => intro m; rfl
  | succ n ih => intro m; simp [masks, ih]

/-- The sequential masks of the model are the spec's `T_j` (R102). -/
theorem maskAt_dbl (t : List Byte) (j : Nat) : maskAt (dbl t) j = maskAt t (j + 1) := by
  induction j with
  | zero => rfl
  | succ j ih => simp only [maskAt, ih]

/-- Mask `j` of the sequence. -/
theorem masks_getElem? (n : Nat) : ∀ (t : List Byte) (j : Nat), j < n → (masks n t)[j]? = some (maskAt t j) := by
  induction n with
  | zero => intro t j h; omega
  | succ n ih =>
    intro t j h
    cases j with
    | zero => rfl
    | succ j =>
      rw [masks, List.getElem?_cons_succ, ih _ _ (by omega), maskAt_dbl]

@[simp] theorem fullBlocks_length (n : Nat) : ∀ l, (fullBlocks n l).length = n := by
  induction n with
  | zero => intro l; rfl
  | succ n ih => intro l; simp [fullBlocks, ih]

/-- Input block `j` (R108). -/
theorem fullBlocks_getElem? (n : Nat) : ∀ (l : List Byte) (j : Nat), j < n →
    (fullBlocks n l)[j]? = some ((l.drop (16 * j)).take 16) := by
  induction n with
  | zero => intro l j h; omega
  | succ n ih =>
    intro l j h
    cases j with
    | zero => rfl
    | succ j =>
      rw [fullBlocks, List.getElem?_cons_succ, ih _ _ (by omega), List.drop_drop,
        show 16 + 16 * j = 16 * (j + 1) by omega]

/-- A mode block of a 16-byte mask has 16 bytes. -/
theorem xex_length {dir : Dir} {rk : Vector Word 32} {m b : List Byte} (hm : m.length = 16) : (xex dir rk m b).length = 16 := by
  simp [xex, hm]

/-- The blocks of the mode: block `j` is the input block under `T_j` (R110). -/
theorem modeBlocks_getElem? (dir : Dir) (rk : Vector Word 32) (t0 input : List Byte) (n j : Nat) (h : j < n) :
    (List.zipWith (xex dir rk) (masks n t0) (fullBlocks n input))[j]? =
      some (xex dir rk (maskAt t0 j) ((input.drop (16 * j)).take 16)) := by
  simp [List.getElem?_zipWith, masks_getElem? n t0 j h, fullBlocks_getElem? n input j h]

/-- A list of 16-byte strings, joined: its length. -/
theorem flatten_length16 {os : List (List Byte)} (h : ∀ o ∈ os, o.length = 16) : os.flatten.length = 16 * os.length := by
  induction os with
  | nil => rfl
  | cons o os ih =>
    have h1 := h o List.mem_cons_self
    have h2 := ih fun x hx => h x (List.mem_cons_of_mem _ hx)
    simp only [List.flatten_cons, List.length_append, List.length_cons, h1, h2]
    omega

/-- Every block of the mode has 16 bytes. -/
theorem modeBlocks_length16 (dir : Dir) (rk : Vector Word 32) {t0 : List Byte} (ht : t0.length = 16) (input : List Byte) (n : Nat) :
    ∀ o ∈ List.zipWith (xex dir rk) (masks n t0) (fullBlocks n input), o.length = 16 := by
  intro o ho
  obtain ⟨j, hj, rfl⟩ := List.getElem_of_mem ho
  have hn : j < n := by simpa using hj
  have := modeBlocks_getElem? dir rk t0 input n j hn
  rw [List.getElem?_eq_getElem hj, Option.some_inj] at this
  rw [this]
  exact xex_length (by simp [ht])

/-- "output length == input length" (R108), for an input of one block or more. -/
theorem process_length (dir : Dir) (rkD rkT : Vector Word 32) (twk input : List Byte) (h : 16 ≤ input.length) :
    (process dir rkD rkT twk input).length = input.length := by
  have hos := modeBlocks_length16 dir rkD (encBlock_length rkT twk) input (input.length / 16)
  simp only [process]
  generalize hO : List.zipWith (xex dir rkD) (masks (input.length / 16) (encBlock rkT twk))
    (fullBlocks (input.length / 16) input) = os at hos ⊢
  have hlen : os.length = input.length / 16 := by rw [← hO]; simp
  split
  · rw [flatten_length16 hos, hlen]; omega
  · rename_i hr
    have hpos : 0 < os.length := by omega
    have hm : ((masks (input.length / 16) (encBlock rkT twk)).getLastD []).length = 16 := by
      rw [List.getLastD_eq_getLast?, List.getLast?_eq_getElem?, masks_length, masks_getElem? _ _ _ (by omega)]
      simp
    have hcc : (os.getLastD []).length = 16 := by
      rw [List.getLastD_eq_getLast?, List.getLast?_eq_getElem?, List.getElem?_eq_getElem (by omega)]
      exact hos _ (List.getElem_mem _)
    have hd : os.dropLast.flatten.length = 16 * (os.length - 1) := by
      rw [flatten_length16 fun o ho => hos o (List.mem_of_mem_dropLast ho)]; simp
    simp only [List.length_append, List.length_take, hcc, xex_length hm, hd]
    omega

end Sys2Proof.Machine
end

