-- ==== Sys2Proof/Laws/Exec.lean ====
section
/-! SUPPORT. What the shared parts of the commands can do, said once: each always answers a next state. -/

namespace Sys2Proof.Machine

/-- CENC and CDEC: the three ways they end (R80, R82). -/
theorem blockCommand_cases (f : Vector Word 32 → List Byte → List Byte) (sl : Slot) (len : Nat) (s : State) :
    (s.rkv sl = false ∧ blockCommand f sl len s = .next (s.setStatus .noKey 0)) ∨
    (s.rkv sl = true ∧ len ≠ 16 ∧ blockCommand f sl len s = .next (s.setStatus .invalidBlockLength 0)) ∨
    (s.rkv sl = true ∧ len = 16 ∧ blockCommand f sl len s =
      .next ((memWrite .obuf 0 (f (s.rk sl) (firstOperand s)) s).setStatus .none 16)) := by
  unfold blockCommand
  by_cases h1 : s.rkv sl = false
  · exact .inl ⟨h1, by simp [h1]⟩
  · have h1' : s.rkv sl = true := by simpa using h1
    by_cases h2 : len = 16
    · exact .inr (.inr ⟨h1', h2, by simp [h1', h2]⟩)
    · exact .inr (.inl ⟨h1', h2, by simp [h1', h2]⟩)

/-- MENC and MDEC: the four ways they end (R116, R117, R119). -/
theorem modeStep_cases (dir : Dir) (len : Nat) (s : State) :
    ((s.rkvD = false ∨ s.rkvT = false) ∧ modeStep dir len s = .next (s.setStatus .noKey 0)) ∨
    (s.rkvD = true ∧ s.rkvT = true ∧ len < 16 ∧ modeStep dir len s = .next (s.setStatus .inputTooShort 0)) ∨
    (s.rkvD = true ∧ s.rkvT = true ∧ 16 ≤ len ∧ s.maxLen < len ∧
      modeStep dir len s = .next (s.setStatus .inputTooLong 0)) ∨
    (s.rkvD = true ∧ s.rkvT = true ∧ 16 ≤ len ∧ len ≤ s.maxLen ∧ modeStep dir len s =
      .next ((memWrite .obuf 0 (process dir s.rkD s.rkT (tweakOperand s) (modeInput s len)) s).setStatus .none
        (BitVec.ofNat 24 len))) := by
  unfold modeStep
  by_cases h1 : s.rkvD = false ∨ s.rkvT = false
  · exact .inl ⟨h1, by simp [h1]⟩
  · have hD : s.rkvD = true := by revert h1; cases s.rkvD <;> simp
    have hT : s.rkvT = true := by revert h1; cases s.rkvT <;> simp
    by_cases h2 : len < 16
    · exact .inr (.inl ⟨hD, hT, h2, by simp [hD, hT, h2]⟩)
    · have h2' : 16 ≤ len := by omega
      by_cases h3 : s.maxLen < len
      · exact .inr (.inr (.inl ⟨hD, hT, h2', h3, by simp [hD, hT, h2, h3]⟩))
      · have h3' : len ≤ s.maxLen := by omega
        exact .inr (.inr (.inr ⟨hD, hT, h2', h3', by simp [hD, hT, h2, h3]⟩))

/-- CNEW: the two ways it ends (R95). -/
theorem execCnew_cases (sl : Slot) (len : Nat) (s : State) :
    (len ≠ 16 ∧ execCnew sl len s = .next (s.setStatus .invalidKeyLength 0)) ∨
    (len = 16 ∧ execCnew sl len s = .next ((s.setSlot sl (expand (firstOperand s)) true).setStatus .none 0)) := by
  unfold execCnew
  by_cases h : len = 16
  · exact .inr ⟨h, by simp [h]⟩
  · exact .inl ⟨h, by simp [h]⟩

/-- MNEW: the two ways it ends (R115). -/
theorem execMnew_cases (len : Nat) (s : State) :
    (len ≠ 32 ∧ execMnew len s = .next (s.setStatus .invalidKeyLength 0)) ∨
    (len = 32 ∧ execMnew len s = .next
      (((s.setSlot .D (expand (firstOperand s)) true).setSlot .T (expand (secondOperand s)) true).setStatus .none 0)) := by
  unfold execMnew
  by_cases h : len = 32
  · exact .inr ⟨h, by simp [h]⟩
  · exact .inl ⟨h, by simp [h]⟩

/-- CDROP: the one way it ends (R97). -/
theorem execCdrop_eq (sl : Slot) (s : State) :
    execCdrop sl s = .next ((s.setSlot sl (Vector.replicate 32 0) false).setStatus .none 0) := rfl

/-- The bytes MENC and MDEC store are exactly `len`. -/
theorem modeOutput_length (dir : Dir) (s : State) (len : Nat) (h : 16 ≤ len) :
    (process dir s.rkD s.rkT (tweakOperand s) (modeInput s len)).length = len := by
  rw [process_length _ _ _ _ _ (by simpa [modeInput] using h)]
  simp [modeInput]

end Sys2Proof.Machine
end

