-- ==== Sys2Proof/Laws/PerInstr.lean ====
section
/-! SUPPORT. The family EncodedFields: what stands in the four fields of a command's word (30_encoding.md R54 to R56). -/

namespace Sys2Proof

/-- The fields of a word of format C are what was packed into it (R54). -/
theorem formatC_fields (len : BitVec 24) (slot : BitVec 1) (op : BitVec 4) :
    opField (formatC len slot op) = op ∧ slotField (formatC len slot op) = slot ∧ rsvField (formatC len slot op) = 0 ∧
      lenField (formatC len slot op) = len := by
  refine ⟨?_, ?_, ?_, ?_⟩ <;> ext i hi
  · have h1 : i < 8 := by omega
    have h2 : i < 32 := by omega
    simp [opField, formatC, h1, h2, hi]
  · have h0 : i = 0 := by omega
    subst h0
    simp [slotField, formatC]
  · have h1 : ¬ 5 + i < 4 := by omega
    have h2 : 5 + i < 8 := by omega
    have h3 : 1 ≤ 5 + i - 4 := by omega
    simp [rsvField, formatC, h1, h2, BitVec.getLsbD_of_ge op (5 + i) (by omega), BitVec.getLsbD_of_ge slot _ h3]
  · have h2 : 8 + i < 32 := by omega
    have h3 : 1 ≤ 8 + i - 4 := by omega
    simp [lenField, formatC, h2, BitVec.getLsbD_of_ge op (8 + i) (by omega), BitVec.getLsbD_of_ge slot _ h3]
    simp [BitVec.getLsbD_eq_getElem hi]

namespace Laws.EncodedFields

/-- The fields of `encode i` for a well-formed command. -/
def Statement (i : Instr) : Prop :=
  i.WellFormed → opField (encode i) = i.opcode ∧ slotField (encode i) = bitOfSlot i.slot ∧ rsvField (encode i) = 0 ∧
    (lenField (encode i)).toNat = i.len

/-- What the lemmas below share. -/
theorem of_wellFormed (i : Instr) : Statement i := by
  intro h
  obtain ⟨h1, h2, h3, h4⟩ := formatC_fields (BitVec.ofNat 24 i.len) (bitOfSlot i.slot) i.opcode
  refine ⟨h1, h2, h3, ?_⟩
  rw [encode, h4, BitVec.toNat_ofNat]
  exact Nat.mod_eq_of_lt h

theorem cnew (s : Slot) (len : Nat) : Statement (.cnew s len) := of_wellFormed _
theorem cenc (s : Slot) (len : Nat) : Statement (.cenc s len) := of_wellFormed _
theorem cdec (s : Slot) (len : Nat) : Statement (.cdec s len) := of_wellFormed _
theorem mnew (len : Nat) : Statement (.mnew len) := of_wellFormed _
theorem menc (len : Nat) : Statement (.menc len) := of_wellFormed _
theorem mdec (len : Nat) : Statement (.mdec len) := of_wellFormed _
theorem cdrop (s : Slot) : Statement (.cdrop s) := of_wellFormed _

end Laws.EncodedFields

end Sys2Proof
end

