-- ==== Sys2Proof/Tests/Slice0.lean ====
section
/-! SUPPORT. Tests whose expected values are the spec's own (95_test_vectors.md and the rules' worked examples), and for every
statement with hypotheses a witness that meets them. -/

namespace Sys2Proof.Tests

open Sys2Proof.Machine

/-! ### Well-formedness: the one check refuses an ill-formed term -/

theorem test_len_of_24_bits_is_wellFormed : (Instr.menc 16777215).WellFormed := by decide
theorem test_len_of_25_bits_is_refused : ¬ (Instr.menc 16777216).WellFormed := by decide
theorem test_slot_command_len_is_refused : ¬ (Instr.cnew .T 16777216).WellFormed := by decide

/-! ### Decoding: words written out from the patterns of R58 -/

theorem test_decode_cnew : decode 0b000000000000000000010000_000_1_0001 = .ok (.cnew .T 16) := by decide
theorem test_decode_cenc : decode 0b000000000000000000010000_000_0_0010 = .ok (.cenc .D 16) := by decide
theorem test_decode_cdec : decode 0b000000000000000000010000_000_1_0011 = .ok (.cdec .T 16) := by decide
theorem test_decode_mnew : decode 0b000000000000000000100000_000_0_0100 = .ok (.mnew 32) := by decide
theorem test_decode_menc : decode 0b100000000000000000010001_000_0_0101 = .ok (.menc 8388625) := by decide
theorem test_decode_mdec : decode 0b000000000000000000100000_000_0_0110 = .ok (.mdec 32) := by decide
theorem test_decode_cdrop : decode 0b000000000000000000000000_000_1_0111 = .ok (.cdrop .T) := by decide
theorem test_decode_slot_on_mode_command : decode 0b000000000000000000010001_000_1_0101 = .error .slotNotZero := by decide
theorem test_decode_reserved_bit : decode 0b000000000000000000010000_100_0_0001 = .error .reservedBits := by decide
theorem test_decode_cdrop_with_len : decode 0b000000000000000000000001_000_0_0111 = .error .lenNotZero := by decide
theorem test_decode_zero : decode 0 = .error .unassignedOp := by decide
theorem test_decodeTableWord : decodeTableWord 32 0x00001105 = some (.menc 17) := by decide

/-! ### Constants and datapath -/

theorem test_sbox_examples :
    sbox 0x00 = 0xd6 ∧ sbox 0x01 = 0x90 ∧ sbox 0x71 = 0x00 ∧ sbox 0xef = 0x84 ∧ sbox 0xff = 0x48 := by decide
/-- R68: a permutation with the one fixed point 0xab. -/
theorem test_sbox_permutation : (∀ y : Byte, ∃ x : Byte, sbox x = y) ∧ ∀ x : Byte, sbox x = x ↔ x = 0xab := by
  decide +kernel
/-- R86's table. -/
theorem test_ck_table : ckTable =
    [0x00070e15, 0x1c232a31, 0x383f464d, 0x545b6269, 0x70777e85, 0x8c939aa1, 0xa8afb6bd, 0xc4cbd2d9,
     0xe0e7eef5, 0xfc030a11, 0x181f262d, 0x343b4249, 0x50575e65, 0x6c737a81, 0x888f969d, 0xa4abb2b9] ++
    [0xc0c7ced5, 0xdce3eaf1, 0xf8ff060d, 0x141b2229, 0x30373e45, 0x4c535a61, 0x686f767d, 0x848b9299,
     0xa0a7aeb5, 0xbcc3cad1, 0xd8dfe6ed, 0xf4fb0209, 0x10171e25, 0x2c333a41, 0x484f565d, 0x646b7279] := by decide
/-- R71, and 95_test_vectors.md section 5. -/
theorem test_tRound : tRound 0xf002c39e = 0x26d99622 ∧ tRound 0x01234567 = 0x6ef180c9 := by decide
/-- R88, and 95_test_vectors.md section 5. -/
theorem test_tKey : tKey 0x8283cb69 = 0x53b37958 ∧ tKey 0xdeadbeef = 0x1d79e4a3 := by decide
/-- R72's worked example. -/
theorem test_round : roundF 0xf12186f9 ⟨0x01234567, 0x89abcdef, 0xfedcba98, 0x76543210⟩ =
    ⟨0x89abcdef, 0xfedcba98, 0x76543210, 0x27fad345⟩ := by decide
/-- 95_test_vectors.md section 5. -/
theorem test_dbl : dbl [0x01, 0x23, 0x45, 0x67, 0x89, 0xab, 0xcd, 0xef, 0xfe, 0xdc, 0xba, 0x98, 0x76, 0x54, 0x32, 0x10] =
    [0x02, 0x46, 0x8a, 0xce, 0x12, 0x57, 0x9b, 0xdf, 0xfd, 0xb9, 0x75, 0x31, 0xed, 0xa8, 0x64, 0x20] := by decide

/-! ### One command on a small state -/

/-- The bytes of a number, most significant first. -/
def beBytes (n k : Nat) : List Byte := (List.range k).map fun i => BitVec.ofNat 8 (n >>> (8 * (k - 1 - i)))

def keyD : List Byte := beBytes 0x0123456789abcdeffedcba9876543210 16
def keyT : List Byte := beBytes 0xfedcba98765432100123456789abcdef 16

/-- An empty CORE with MAXLEN = 64 and `input` in IBUF. -/
def fresh (input : List Byte) : State := { State.reset with maxLen := 64, ibuf := Memory.writeBytes [] 0 input }

/-- The common setup of 95_test_vectors.md section 6, with `input` in IBUF. -/
def ready (input : List Byte) : State :=
  { fresh input with
    rkD := expand keyD, rkT := expand keyT, rkvD := true, rkvT := true
    twk := Memory.writeBytes [] 0 (beBytes 0x000102030405060708090a0b0c0d0e0f 16) }

/-- The bytes `0x10, 0x11, ...` of section 6. -/
def plain (n : Nat) : List Byte := (List.range n).map fun k => BitVec.ofNat 8 (0x10 + k)

/-- The first `n` bytes of OBUF after a command. -/
def output (o : Host.Outcome State Fault Refusal) (n : Nat) : Option (List Byte) :=
  match o with
  | .next t => some (memRead t .obuf 0 n)
  | _ => none

/-- ERR, STATUS and OLEN after a command. -/
def status (o : Host.Outcome State Fault Refusal) : Option (ErrCode × Word × Word) :=
  match o with
  | .next t => some (t.err, statusWord t, olenWord t)
  | _ => none

/-- Subkey `i` of a slot after a command. -/
def subkey (o : Host.Outcome State Fault Refusal) (sl : Slot) (i : Nat) : Option Word :=
  match o with
  | .next t => (t.rk sl).toList[i]?
  | _ => none

/-- R95's worked example. -/
theorem test_cnew : subkey (exec (.cnew .D 16) (fresh keyD)) .D 31 = some 0x9124a012 ∧
    status (exec (.cnew .D 16) (fresh keyD)) = some (.none, 0x00000010, 0) := by decide +kernel
/-- E13: a wrong length leaves the slot's schedule. -/
theorem test_cnew_length : status (exec (.cnew .D 17) (ready [])) = some (.invalidKeyLength, 0x00000031, 0) ∧
    subkey (exec (.cnew .D 17) (ready [])) .D 0 = some 0xf12186f9 := by decide +kernel
/-- The source's fixed vector (section 1). -/
theorem test_cenc : output (exec (.cenc .D 16) (ready keyD)) 16 = some (beBytes 0x681edf34d206965e86b3e94f536e4246 16) := by
  decide +kernel
/-- E4 and E5. -/
theorem test_cenc_errors : status (exec (.cenc .D 15) (ready [])) = some (.invalidBlockLength, 0x00000033, 0) ∧
    status (exec (.cenc .T 16) (fresh [])) = some (.noKey, 0x00000005, 0) := by decide +kernel
/-- B9. -/
theorem test_cdec : output (exec (.cdec .T 16) (ready keyD)) 16 = some (beBytes 0xefb0d0e93e11dc602580d9957e463b43 16) := by
  decide +kernel
/-- R115's worked example. -/
theorem test_mnew : subkey (exec (.mnew 32) (fresh (keyD ++ keyT))) .D 0 = some 0xf12186f9 ∧
    subkey (exec (.mnew 32) (fresh (keyD ++ keyT))) .T 31 = some 0x711138b7 := by decide +kernel
/-- E3. -/
theorem test_mnew_length : status (exec (.mnew 16) (fresh [])) = some (.invalidKeyLength, 0x00000001, 0) := by decide +kernel
/-- X2: the smallest stealing case. -/
theorem test_menc_17 : output (exec (.menc 17) (ready (plain 17))) 17 =
    some (beBytes 0xa145e549aec3ae6e99e8bdd48c72df6c4a 17) := by decide +kernel
/-- X7: two blocks and a stolen one. -/
theorem test_menc_40 : output (exec (.menc 40) (ready (plain 40))) 40 =
    some (beBytes 0x4aee98a45cb6e96e7d988f8f9d359a36fd981e9948116903f3cd461db0bd766182b9a85e64bae142 40) := by decide +kernel
/-- X12: a plaintext fed to decrypt. -/
theorem test_mdec_17 : output (exec (.mdec 17) (ready (plain 17))) 17 =
    some (beBytes 0xa1258831f46971896e4099e8096526224d 17) := by decide +kernel
/-- E8 and E9. -/
theorem test_mode_lengths : status (exec (.mdec 0) (ready [])) = some (.inputTooShort, 0x00000032, 0) ∧
    status (exec (.mdec 65) (ready [])) = some (.inputTooLong, 0x00000036, 0) := by decide +kernel
/-- R97's worked example, with slot T filled. -/
theorem test_cdrop : status (exec (.cdrop .D) (ready [])) = some (.none, 0x00000020, 0) ∧
    subkey (exec (.cdrop .D) (ready [])) .D 0 = some 0 := by decide +kernel

/-! ### One move of the host -/

/-- E11: an illegal word written to CMD. -/
theorem test_illegal_word : status (step ((ready []).withFetchWord 32 0)) = some (.illegalCommand, 0x00000034, 0) := by
  decide +kernel
/-- R36: a write to OBUF is ignored. -/
theorem test_obuf_write_ignored :
    step { ready [] with moves := [.writeByte .obuf 0 0xff] } = .next (ready []) := rfl
/-- R44. -/
theorem test_no_register : step { ready [] with moves := [.readCsr 3] } = .refused (.noSuchRegister 3) := rfl
/-- From reset with nothing placed CORE is idle (R147). -/
theorem test_idle_at_reset : step State.reset = .next State.reset := rfl
/-- The first command after reset: CENC on an empty slot (E1). -/
theorem test_first_command : status (step (State.reset.withFetchWord 32 0x1002)) = some (.noKey, 0x00000005, 0) := by
  decide +kernel

/-! ### Witnesses: the hypotheses of every statement are met -/

theorem witness_DecodeOfEncode : (Instr.menc 16777215).WellFormed ∧ (Instr.cdrop .T).WellFormed := by decide
theorem witness_EncodeOfDecode : decode 0xFFFFFF05 = .ok (.menc 16777215) := by decide
theorem witness_IllegalWordsRaiseIllegalCommand : ∃ e, decode 0x00001021 = .error e := ⟨.reservedBits, by decide⟩
theorem witness_CmdWriteRunsTheDecodedCommand :
    (State.reset.withFetchWord 32 0x1002).moves = .writeCsr 0 0x1002 :: [] ∧ decode 0x1002 = .ok (.cenc .D 16) ∧
    decode 0 = .error .unassignedOp ∧ (State.reset.setMoves [.readCsr 0]).moves = .readCsr 0 :: [] :=
  ⟨rfl, by decide, by decide, rfl⟩
theorem witness_OnlyCommandsAndResetDoWork : State.reset.moves = [] ∧
    step ((ready []).setMoves [.writeByte .ibuf 63 7]) = .next ((ready []).writeByte .ibuf 63 7) ∧
    HostMove.writeByte .ibuf 63 7 ≠ .reset ∧ ∀ w, HostMove.writeByte .ibuf 63 7 ≠ .writeCsr 0 w :=
  ⟨rfl, rfl, by decide, by intro w h; cases h⟩
theorem witness_StatusShowsErrAndSlots : ((ready []).setMoves [.readCsr 1]).moves = .readCsr 1 :: [] ∧
    ((ready []).setMoves [.writeCsr 1 5]).moves = .writeCsr 1 5 :: [] := ⟨rfl, rfl⟩
theorem witness_OlenIsResultLength : ((ready []).setMoves [.readCsr 2]).moves = .readCsr 2 :: [] ∧
    ((ready []).setMoves [.writeCsr 2 5]).moves = .writeCsr 2 5 :: [] ∧
    (decode 0x00004005 = .ok (.menc 64) ∧ Succeeds (ready []) (.menc 64)) ∧
    (decode 0x00004105 = .ok (.menc 65) ∧ ¬ Succeeds (ready []) (.menc 65)) ∧ decode 0 = .error .unassignedOp := by
  refine ⟨rfl, rfl, ⟨by decide, ?_⟩, ⟨by decide, ?_⟩, by decide⟩
  · simp [Succeeds, SlotsPresent, LengthError, ready, fresh]
  · exact fun h => h.2 .inputTooLong (by simp [LengthError, ready, fresh])
theorem witness_HostAccessesOneLocation : 15 < (ready []).size .twk ∧ 63 < (ready []).size .ibuf ∧
    63 < (ready []).size .obuf ∧ ((ready []).setMoves [.readByte .obuf 63]).moves = .readByte .obuf 63 :: [] ∧
    ((ready []).setMoves [.writeByte .twk 15 1]).moves = .writeByte .twk 15 1 :: [] ∧ (2 : Nat) < 3 := by decide
theorem witness_NoLocationIsRefused : (ready []).size .twk ≤ 16 ∧ (ready []).size .ibuf ≤ 64 ∧ (3 : Nat) ≤ 3 ∧
    ((ready []).setMoves [.readByte .twk 16]).moves = .readByte .twk 16 :: [] ∧
    ((ready []).setMoves [.writeByte .ibuf 64 1]).moves = .writeByte .ibuf 64 1 :: [] ∧
    ((ready []).setMoves [.readCsr 3]).moves = .readCsr 3 :: [] ∧
    ((ready []).setMoves [.writeCsr 3 0]).moves = .writeCsr 3 0 :: [] := by decide
theorem witness_EveryLocatedMoveCompletes : ((ready []).setMoves [.readByte .obuf 63]).moves = .readByte .obuf 63 :: [] ∧
    NamesLocation (ready []) (.readByte .obuf 63) ∧ ∃ t, step ((ready []).setMoves [.readByte .obuf 63]) = .next t :=
  ⟨rfl, by simp [NamesLocation, State.size, ready, fresh], _, rfl⟩
theorem witness_SideEffectsOfHostAccesses :
    (∃ t, step ((ready []).setMoves [.readByte .twk 15]) = .next t) ∧
    (∃ t, step ((ready []).setMoves [.readCsr 2]) = .next t) ∧ 15 < (ready []).size .twk ∧ Space.twk ≠ .obuf ∧
    63 < (ready []).size .ibuf ∧ Space.ibuf ≠ .obuf := ⟨⟨_, rfl⟩, ⟨_, rfl⟩, by decide, by decide, by decide, by decide⟩
theorem witness_PutStoresItsBytes : Space.ibuf ≠ .obuf ∧ 48 + (plain 16).length ≤ (ready []).size .ibuf ∧
    ((ready []).setMoves (Listing.put .ibuf 48 (plain 16))).moves = Listing.put .ibuf 48 (plain 16) ++ [] := by decide
theorem witness_GetAnswersTheBytes : 48 + 16 ≤ (ready []).size .obuf ∧
    ((ready []).setMoves (Listing.get .obuf 48 16)).moves = Listing.get .obuf 48 16 ++ [] := by decide
theorem witness_FirstFailingCheckIsReported : decode 0x1115 = .error .slotNotZero ∧
    decode 0x1105 = .ok (.menc 17) ∧ ¬ SlotsPresent (fresh []) (.menc 17) ∧ SlotsPresent (ready []) (.menc 17) ∧
    LengthError 64 (.menc 65) .inputTooLong ∧ LengthError 64 (.menc 15) .inputTooShort ∧ Succeeds (ready []) (.menc 64) ∧
    (fresh []).rkvD = false ∧ (fresh []).rkvT = false ∧ (ready []).rkvD = true ∧ (ready []).rkvT = true := by
  refine ⟨by decide, by decide, ?_, ?_, ?_, ?_, ?_, rfl, rfl, rfl, rfl⟩ <;>
    simp [SlotsPresent, LengthError, Succeeds, ready, fresh, State.reset]
theorem witness_FailedCommandChangesOnlyStatus :
    runWord 0 (ready []) = .next ((ready []).setStatus .illegalCommand 0) ∧ ErrCode.illegalCommand ≠ .none := ⟨rfl, by decide⟩
theorem witness_FailureLeavesNoTrace : runWord 0 (ready []) = .next ((ready []).setStatus .illegalCommand 0) ∧
    ((ready []).setStatus .illegalCommand 0).err ≠ .none := ⟨rfl, by simp⟩
theorem witness_ErrIsOutcomeOfLastCommand : step ((ready []).setMoves [.writeCsr 1 5]) = .next ((ready []).setMoves []) ∧
    HostMove.writeCsr 1 5 ≠ .reset ∧ ∀ w, HostMove.writeCsr 1 5 ≠ .writeCsr 0 w :=
  ⟨rfl, by decide, by intro w h; cases h⟩
theorem witness_KeyLengthErrors : (0 : Nat) ≠ 16 ∧ (15 : Nat) ≠ 16 ∧ (17 : Nat) ≠ 16 ∧ (31 : Nat) ≠ 32 := by decide
theorem witness_ModeLengthErrors : (ready []).rkvD = true ∧ (ready []).rkvT = true ∧ (0 : Nat) < 16 ∧ (15 : Nat) < 16 ∧
    16 ≤ 65 ∧ (ready []).maxLen < 65 := by decide
theorem witness_BlockLengthErrors : (ready []).rkv .D = true ∧ (ready []).rkv .T = true ∧ (15 : Nat) ≠ 16 := by decide
theorem witness_EmptySlotFailsWithNoKey : (fresh []).rkv .D = false ∧ (fresh []).rkv .T = false ∧
    ((ready []).setSlot .D (Vector.replicate 32 0) false).rkvD = false ∧
    ((ready []).setSlot .T (Vector.replicate 32 0) false).rkvT = false := ⟨rfl, rfl, rfl, rfl⟩
theorem witness_SchedulesAreImmutable :
    memRead (fresh (keyD ++ keyD)) .ibuf 0 16 = memRead (fresh (keyD ++ keyD)) .ibuf 16 16 := by decide +kernel
theorem witness_ExpandFollowsRecurrence : keyD.length = 16 := by decide
theorem witness_CircularBufferAgrees : keyT.length = 16 := by decide
theorem witness_WordsAndBytesAreInverse : keyD.length = 16 ∧ (3 : Nat) < 4 := by decide
theorem witness_LIsLinearAndCommutesWithRotation : (0 : Nat) < 1 ∧ (31 : Nat) < 32 := by decide
theorem witness_DecryptInvertsEncrypt : (plain 16).length = 16 := by decide
theorem witness_RotationMovesBits : (0 : Nat) < 1 ∧ (31 : Nat) < 32 := by decide
theorem witness_CryptFollowsRecurrence : (plain 16).length = 16 := by decide
theorem witness_CencCompletes : (ready exampleBytes).rkv .D = true ∧ (ready exampleBytes).rkv .T = true ∧
    (ready exampleBytes).rk .D = expand exampleBytes ∧ memRead (ready exampleBytes) .ibuf 0 16 = exampleBytes :=
  ⟨rfl, rfl, congrArg expand (by decide : keyD = exampleBytes), by decide +kernel⟩
theorem witness_CdecCompletes : (ready exampleCiphertext).rkv .D = true ∧ (ready exampleCiphertext).rkv .T = true ∧
    (ready exampleCiphertext).rk .D = expand exampleBytes ∧
    memRead (ready exampleCiphertext) .ibuf 0 16 = exampleCiphertext :=
  ⟨rfl, rfl, congrArg expand (by decide : keyD = exampleBytes), by decide +kernel⟩

/-- The common state meets the invariant. -/
theorem ready_inv (ms : List HostMove) : ((ready (plain 40)).setMoves ms).Inv := by
  refine ⟨?_, ?_, ?_, ?_, ?_, ?_, ?_⟩
  · exact (by decide : 32 ≤ 64)
  · exact (by decide : 64 ≤ 16777215)
  · exact writeBytes_wf _ ⟨List.Pairwise.nil, by simp⟩ (by decide)
  · exact writeBytes_wf _ ⟨List.Pairwise.nil, by simp⟩ (by decide : 0 + (plain 40).length ≤ 64)
  · exact ⟨List.Pairwise.nil, by simp [ready, fresh, State.reset]⟩
  · simp [ready, fresh, State.reset]
  · simp [ready, fresh, State.reset]

theorem witness_EncryptThenDecryptRun : ∃ s : State, ∃ rest : List HostMove, s.Inv ∧ s.rkv .D = true ∧
    s.moves = Listing.command (.cenc .D 16) ++ Listing.get .obuf 0 16 ++
      Listing.put .ibuf 0 (encBlock (s.rk .D) (memRead s .ibuf 0 16)) ++ Listing.command (.cdec .D 16) ++
      Listing.get .obuf 0 16 ++ rest :=
  ⟨(ready (plain 40)).setMoves (Listing.command (.cenc .D 16) ++ Listing.get .obuf 0 16 ++
      Listing.put .ibuf 0 (encBlock (expand keyD) (memRead (ready (plain 40)) .ibuf 0 16)) ++ Listing.command (.cdec .D 16) ++
      Listing.get .obuf 0 16 ++ []), [], ready_inv _, rfl, rfl⟩
theorem witness_DoublingShiftsAndReduces : keyD.length = 16 ∧ (15 : Nat) < 16 := by decide
theorem witness_DoublingIsLinearBijection : keyD.length = 16 ∧ keyT.length = 16 ∧
    maskAt (List.replicate 16 0) 3 = List.replicate 16 0 := by decide
theorem witness_XexDirectionsAreInverse : keyT.length = 16 ∧ (plain 16).length = 16 := by decide
theorem witness_ModeRoundTrip : keyT.length = 16 ∧ 16 ≤ (plain 16).length ∧ 16 ≤ (plain 17).length := by decide
theorem witness_MencCompletes : (ready []).rkvD = true ∧ (ready []).rkvT = true ∧ 16 ≤ 16 ∧ 16 ≤ 64 ∧ 64 ≤ (ready []).maxLen := by
  decide
theorem witness_MdecCompletes : (ready []).rkvD = true ∧ (ready []).rkvT = true ∧ 16 ≤ 16 ∧ 16 ≤ 64 ∧ 64 ≤ (ready []).maxLen := by
  decide
theorem witness_ModeResultDependsOnOperandsOnly : (ready (plain 17)).rkvD = true ∧ (ready (plain 17)).rkvT = true ∧
    (ready (plain 24)).rkvD = true ∧ (ready (plain 24)).rkvT = true ∧ 17 ≤ (ready (plain 17)).maxLen ∧
    17 ≤ (ready (plain 24)).maxLen ∧ (ready (plain 24)).rkD = (ready (plain 17)).rkD ∧
    (ready (plain 24)).rkT = (ready (plain 17)).rkT ∧
    memRead (ready (plain 24)) .twk 0 16 = memRead (ready (plain 17)) .twk 0 16 ∧
    memRead (ready (plain 24)) .ibuf 0 17 = memRead (ready (plain 17)) .ibuf 0 17 :=
  ⟨rfl, rfl, rfl, rfl, by decide, by decide, rfl, rfl, by decide +kernel, by decide +kernel⟩
theorem witness_ModeEncryptThenDecryptRun : ∃ s : State, ∃ rest : List HostMove, s.Inv ∧ s.rkvD = true ∧ s.rkvT = true ∧
    17 ≤ s.maxLen ∧ s.moves = Listing.command (.menc 17) ++
      Listing.put .ibuf 0 (process .enc s.rkD s.rkT (memRead s .twk 0 16) (memRead s .ibuf 0 17)) ++
      Listing.command (.mdec 17) ++ Listing.get .obuf 0 17 ++ rest :=
  ⟨(ready (plain 40)).setMoves (Listing.command (.menc 17) ++
      Listing.put .ibuf 0 (process .enc (expand keyD) (expand keyT) (memRead (ready (plain 40)) .twk 0 16)
        (memRead (ready (plain 40)) .ibuf 0 17)) ++
      Listing.command (.mdec 17) ++ Listing.get .obuf 0 17 ++ []), [], ready_inv _, rfl, rfl, by decide, rfl⟩
theorem witness_StepKeepsInvariant : ((ready (plain 40)).setMoves [.writeCsr 0 0x1002]).Inv ∧
    ∃ t, step ((ready (plain 40)).setMoves [.writeCsr 0 0x1002]) = .next t := ⟨ready_inv _, _, rfl⟩
theorem witness_EmptySlotSubkeysAreNeverRead : SameButDeadSubkeys (fresh []) { fresh [] with rkD := Vector.replicate 32 1 } ∧
    (fresh []).rkv .D = false := by
  refine ⟨⟨rfl, fun sl h => ?_⟩, rfl⟩
  cases sl <;> cases h
theorem witness_HostCannotReadSubkeys : SameButSubkeys ((ready []).setMoves [.readCsr 1])
      { (ready []).setMoves [.readCsr 1] with rkD := Vector.replicate 32 1 } ∧
    ((ready []).setMoves [.readCsr 1]).moves = .readCsr 1 :: [] ∧ ∀ w, HostMove.readCsr 1 ≠ .writeCsr 0 w :=
  ⟨rfl, rfl, by intro w h; cases h⟩
theorem witness_ResetEmptiesSlots : ((ready []).setMoves [.reset]).moves = .reset :: [] := rfl

end Sys2Proof.Tests
end

section
/-! PROOFS. What keeps the invariant: one lemma per update of the state, then per command and per move; the conversions
between words and bytes (00_scope.md R10); the rotation (R9). -/

namespace Sys2Proof.Machine

section

variable {s t : State}

/-! ### What keeps the invariant: the updates of the state -/

/-- Every buffer is in canonical form inside its space (R35). -/
theorem State.Inv.mem_wf (h : s.Inv) : ∀ sp, Memory.wf (s.size sp) (s.mem sp)
  | .twk => h.twk_wf
  | .ibuf => h.ibuf_wf
  | .obuf => h.obuf_wf

theorem setMoves_inv (h : s.Inv) (ms : List HostMove) : (s.setMoves ms).Inv := { h with }

theorem addAnswer_inv (h : s.Inv) (a : Answer) : (s.addAnswer a).Inv := { h with }

theorem setSlot_inv (h : s.Inv) (sl : Slot) (k : Vector Word 32) (v : Bool) : (s.setSlot sl k v).Inv := by
  cases sl <;> exact { h with }

/-- A status may be written that respects MAXLEN and R127. -/
theorem setStatus_inv (h : s.Inv) {e : ErrCode} {n : BitVec 24} (hn : n.toNat ≤ s.maxLen) (he : e ≠ .none → n = 0) :
    (s.setStatus e n).Inv :=
  { h with olen_le := hn, failed_olen := he }

/-- An error, or a success without result bytes, leaves `OLEN = 0`. -/
theorem setStatus_zero_inv (h : s.Inv) (e : ErrCode) : (s.setStatus e 0).Inv :=
  setStatus_inv h (Nat.zero_le _) fun _ => rfl

theorem setMem_inv (h : s.Inv) {sp : Space} {m : Memory} (hm : Memory.wf (s.size sp) m) : (s.setMem sp m).Inv :=
  match sp with
  | .twk => { h with twk_wf := hm }
  | .ibuf => { h with ibuf_wf := hm }
  | .obuf => { h with obuf_wf := hm }

theorem writeByte_inv (h : s.Inv) {sp : Space} {off : Nat} (hoff : off < s.size sp) (b : Byte) :
    (s.writeByte sp off b).Inv :=
  setMem_inv h (write_wf (h.mem_wf sp) hoff b)

theorem memWrite_inv (h : s.Inv) {sp : Space} {a : Nat} {v : List Byte} (hv : a + v.length ≤ s.size sp) :
    (memWrite sp a v s).Inv :=
  setMem_inv h (writeBytes_wf v (h.mem_wf sp) hv)

/-- The end of a command whose result is the byte string `v`, of a length no greater than MAXLEN (R25). -/
theorem storeResult_inv (h : s.Inv) {v : List Byte} {n : Nat} (hv : v.length = n) (hn : n ≤ s.maxLen) :
    ((memWrite .obuf 0 v s).setStatus .none (BitVec.ofNat 24 n)).Inv := by
  have hfit : 0 + v.length ≤ s.size .obuf := by simpa [State.size, hv] using hn
  have holen : (BitVec.ofNat 24 n).toNat ≤ n := Nat.mod_le _ _
  exact setStatus_inv (memWrite_inv h hfit) (by simpa using holen.trans hn) (absurd rfl)

/-- Reset keeps MAXLEN and which offsets are written, and clears `ERR` and `OLEN` (R30, R145). -/
theorem applyReset_inv (h : s.Inv) : (applyReset s).Inv where
  maxLen_ge := h.maxLen_ge
  maxLen_le := h.maxLen_le
  twk_wf := resetMemory_wf h.twk_wf _ _
  ibuf_wf := resetMemory_wf h.ibuf_wf _ _
  obuf_wf := resetMemory_wf h.obuf_wf _ _
  olen_le := Nat.zero_le _
  failed_olen := fun _ => rfl

/-! ### The commands -/

/-- CENC and CDEC, for a cipher direction `f` that gives 16-byte blocks. -/
theorem blockCommand_inv (h : s.Inv) {f : Vector Word 32 → List Byte → List Byte} (hf : ∀ rk b, (f rk b).length = 16)
    (sl : Slot) (len : Nat) : ∃ t, blockCommand f sl len s = .next t ∧ t.Inv := by
  have h16 : 16 ≤ s.maxLen := le_trans (by decide) h.maxLen_ge
  obtain ⟨_, heq⟩ | ⟨_, _, heq⟩ | ⟨_, _, heq⟩ := blockCommand_cases f sl len s
  · exact ⟨_, heq, setStatus_zero_inv h _⟩
  · exact ⟨_, heq, setStatus_zero_inv h _⟩
  · exact ⟨_, heq, storeResult_inv h (hf _ _) h16⟩

/-- MENC and MDEC: the length checks of R116 keep the result inside OBUF. -/
theorem modeStep_inv (h : s.Inv) (dir : Dir) (len : Nat) : ∃ t, modeStep dir len s = .next t ∧ t.Inv := by
  obtain ⟨_, heq⟩ | ⟨_, _, _, heq⟩ | ⟨_, _, _, _, heq⟩ | ⟨_, _, hge, hle, heq⟩ := modeStep_cases dir len s
  · exact ⟨_, heq, setStatus_zero_inv h _⟩
  · exact ⟨_, heq, setStatus_zero_inv h _⟩
  · exact ⟨_, heq, setStatus_zero_inv h _⟩
  · exact ⟨_, heq, storeResult_inv h (modeOutput_length dir s len hge) hle⟩

theorem execCnew_inv (h : s.Inv) (sl : Slot) (len : Nat) : ∃ t, execCnew sl len s = .next t ∧ t.Inv := by
  obtain ⟨_, heq⟩ | ⟨_, heq⟩ := execCnew_cases sl len s
  · exact ⟨_, heq, setStatus_zero_inv h _⟩
  · exact ⟨_, heq, setStatus_zero_inv (setSlot_inv h sl _ _) _⟩

theorem execMnew_inv (h : s.Inv) (len : Nat) : ∃ t, execMnew len s = .next t ∧ t.Inv := by
  obtain ⟨_, heq⟩ | ⟨_, heq⟩ := execMnew_cases len s
  · exact ⟨_, heq, setStatus_zero_inv h _⟩
  · exact ⟨_, heq, setStatus_zero_inv (setSlot_inv (setSlot_inv h .D _ _) .T _ _) _⟩

/-- Every command completes in a state that meets the invariant. -/
theorem exec_inv (h : s.Inv) : ∀ i, ∃ t, exec i s = .next t ∧ t.Inv
  | .cnew sl len => execCnew_inv h sl len
  | .cenc sl len => blockCommand_inv h encBlock_length sl len
  | .cdec sl len => blockCommand_inv h decBlock_length sl len
  | .mnew len => execMnew_inv h len
  | .menc len => modeStep_inv h .enc len
  | .mdec len => modeStep_inv h .dec len
  | .cdrop sl => ⟨_, execCdrop_eq sl s, setStatus_zero_inv (setSlot_inv h sl _ _) _⟩

/-- So does every command word, legal or not (R23, R132). -/
theorem runWord_inv (h : s.Inv) (w : Word) : ∃ t, runWord w s = .next t ∧ t.Inv := by
  unfold runWord
  cases decode w with
  | ok i => exact exec_inv h i
  | error _ => exact ⟨_, raise_eq _ s, setStatus_zero_inv h _⟩

/-! ### The moves of the host -/

theorem hostWriteByte_inv (h : s.Inv) {sp : Space} {off : Nat} {b : Byte} (hs : hostWriteByte sp off b s = .next t) :
    t.Inv := by
  unfold hostWriteByte at hs
  split at hs
  case isTrue hoff =>
    cases sp with
    | obuf => cases hs; exact h
    | twk => cases hs; exact writeByte_inv h hoff b
    | ibuf => cases hs; exact writeByte_inv h hoff b
  case isFalse => cases hs

theorem hostReadByte_inv (h : s.Inv) {sp : Space} {off : Nat} (hs : hostReadByte sp off s = .next t) : t.Inv := by
  unfold hostReadByte at hs
  split at hs
  case isTrue => cases hs; exact addAnswer_inv h _
  case isFalse => cases hs

theorem hostWriteCsr_inv (h : s.Inv) {n : Nat} {w : Word} (hs : hostWriteCsr n w s = .next t) : t.Inv := by
  match n with
  | 0 =>
    obtain ⟨u, hu, hinv⟩ := runWord_inv h w
    cases hu.symm.trans hs
    exact hinv
  | 1 | 2 => cases hs; exact h
  | _ + 3 => cases hs

theorem hostReadCsr_inv (h : s.Inv) {n : Nat} (hs : hostReadCsr n s = .next t) : t.Inv := by
  unfold hostReadCsr at hs
  split at hs
  · cases hs; exact addAnswer_inv h _
  · cases hs

theorem makeMove_inv (h : s.Inv) {mv : HostMove} (hs : makeMove mv s = .next t) : t.Inv := by
  cases mv with
  | writeByte sp off b => exact hostWriteByte_inv h hs
  | readByte sp off => exact hostReadByte_inv h hs
  | writeCsr n w => exact hostWriteCsr_inv h hs
  | readCsr n => exact hostReadCsr_inv h hs
  | reset => cases hs; exact applyReset_inv h

theorem step_inv (h : s.Inv) (hs : step s = .next t) : t.Inv := by
  unfold step at hs
  split at hs
  · cases hs; exact h
  · exact makeMove_inv (setMoves_inv h _) hs

end

/-- MAXLEN at power-on is in its range, whatever the open parameter is (R5). -/
theorem config_maxLen_range : 32 ≤ Config.maxLen ∧ Config.maxLen ≤ 16777215 := by
  have hlt := Config.maxLenAbove.isLt
  unfold Config.maxLen
  omega

theorem nil_wf (size : Nat) : Memory.wf size [] := ⟨.nil, nofun⟩

/-- The state after power-on: MAXLEN of R5, nothing written, no error, `OLEN = 0`. -/
theorem reset_inv : State.reset.Inv where
  maxLen_ge := config_maxLen_range.1
  maxLen_le := config_maxLen_range.2
  twk_wf := nil_wf _
  ibuf_wf := nil_wf _
  obuf_wf := nil_wf _
  olen_le := Nat.zero_le _
  failed_olen := fun _ => rfl

/-! ### Words and bytes (R10) -/

/-- The shifts and ORs of R10 put the four bytes side by side. -/
theorem ofBytes_eq_append (b0 b1 b2 b3 : Byte) : ofBytes b0 b1 b2 b3 = b0 ++ b1 ++ b2 ++ b3 := by
  rw [← BitVec.setWidth_eq (b0 ++ b1 ++ b2 ++ b3), BitVec.setWidth_append_append_append_eq_shiftLeft_setWidth_or]
  rfl

@[simp] theorem byte3_ofBytes (b0 b1 b2 b3 : Byte) : byte3 (ofBytes b0 b1 b2 b3) = b3 := by
  rw [ofBytes_eq_append]
  exact BitVec.extractLsb'_append_eq_right

@[simp] theorem byte2_ofBytes (b0 b1 b2 b3 : Byte) : byte2 (ofBytes b0 b1 b2 b3) = b2 := by
  rw [ofBytes_eq_append]
  exact (BitVec.extractLsb'_append_eq_of_le (by decide)).trans BitVec.extractLsb'_append_eq_right

@[simp] theorem byte1_ofBytes (b0 b1 b2 b3 : Byte) : byte1 (ofBytes b0 b1 b2 b3) = b1 := by
  rw [ofBytes_eq_append]
  calc (b0 ++ b1 ++ b2 ++ b3 : BitVec 32).extractLsb' 16 8
    _ = (b0 ++ b1 ++ b2).extractLsb' 8 8 := BitVec.extractLsb'_append_eq_of_le (by decide)
    _ = (b0 ++ b1).extractLsb' 0 8 := BitVec.extractLsb'_append_eq_of_le (by decide)
    _ = b1 := BitVec.extractLsb'_append_eq_right

@[simp] theorem byte0_ofBytes (b0 b1 b2 b3 : Byte) : byte0 (ofBytes b0 b1 b2 b3) = b0 := by
  rw [ofBytes_eq_append]
  calc (b0 ++ b1 ++ b2 ++ b3 : BitVec 32).extractLsb' 24 8
    _ = (b0 ++ b1 ++ b2).extractLsb' 16 8 := BitVec.extractLsb'_append_eq_of_le (by decide)
    _ = (b0 ++ b1).extractLsb' 8 8 := BitVec.extractLsb'_append_eq_of_le (by decide)
    _ = b0 := BitVec.extractLsb'_append_eq_left

/-- A word is the combination of its four bytes. -/
@[simp] theorem ofBytes_byte (w : Word) : ofBytes (byte0 w) (byte1 w) (byte2 w) (byte3 w) = w := by
  have h01 : byte0 w ++ byte1 w = w.extractLsb' 16 16 := BitVec.extractLsb'_append_extractLsb'_eq_extractLsb' rfl
  have h012 : w.extractLsb' 16 16 ++ byte2 w = w.extractLsb' 8 24 :=
    BitVec.extractLsb'_append_extractLsb'_eq_extractLsb' rfl
  have h0123 : w.extractLsb' 8 24 ++ byte3 w = w.extractLsb' 0 32 :=
    BitVec.extractLsb'_append_extractLsb'_eq_extractLsb' rfl
  rw [ofBytes_eq_append, h01, h012, h0123, BitVec.extractLsb'_eq_self]

@[simp] theorem bytesOfWord_ofBytes (b0 b1 b2 b3 : Byte) : bytesOfWord (ofBytes b0 b1 b2 b3) = [b0, b1, b2, b3] := by
  simp [bytesOfWord]

theorem words_bytes (q : Quad) : words (bytes q) = q := by
  simp [words, wordAt, bytes, bytesOfWord]

/-- Word `k` of a block, taken apart, is the `k`-th group of four bytes. -/
theorem bytesOfWord_wordAt {b : List Byte} {k : Nat} (h : 4 * k + 4 ≤ b.length) :
    bytesOfWord (wordAt b k) = (b.drop (4 * k)).take 4 := by
  have hget : ∀ m < 4, b.drop (4 * k + m) = b.getD (4 * k + m) 0 :: b.drop (4 * k + m + 1) := fun m hm => by
    have hin : 4 * k + m < b.length := by omega
    rw [List.getD_eq_getElem _ _ hin, List.drop_eq_getElem_cons hin]
  have h0 := hget 0 (by decide)
  rw [Nat.add_zero] at h0
  rw [wordAt, bytesOfWord_ofBytes, h0, hget 1 (by decide), hget 2 (by decide), hget 3 (by decide)]
  rfl

theorem bytes_words {b : List Byte} (h : b.length = 16) : bytes (words b) = b := by
  have hword : ∀ k < 4, bytesOfWord (wordAt b k) = (b.drop (4 * k)).take 4 :=
    fun k hk => bytesOfWord_wordAt (by omega)
  calc bytes (words b)
    _ = b.take 4 ++ (b.drop 4).take 4 ++ (b.drop 8).take 4 ++ (b.drop 12).take 4 := by
      rw [bytes, words, hword 0 (by decide), hword 1 (by decide), hword 2 (by decide), hword 3 (by decide)]
      rfl
    _ = b.take 16 := by rw [← List.take_add, ← List.take_add, ← List.take_add]
    _ = b := List.take_of_length_le h.le

/-! ### Rotation (R9) -/

/-- Bit `k` lands `n` higher, or wraps round past bit 31. -/
theorem getLsbD_rotl (w : Word) {n k : Nat} (hn0 : 0 < n) (hn : n < 32) (hk : k < 32) :
    (rotl w n).getLsbD ((k + n) % 32) = w.getLsbD k := by
  simp only [rotl, BitVec.getLsbD_or, BitVec.getLsbD_shiftLeft, BitVec.getLsbD_ushiftRight]
  rcases Nat.lt_or_ge (k + n) 32 with hlow | hwrap
  · have hout : 32 ≤ 32 - n + (k + n) := by omega
    simp [Nat.mod_eq_of_lt hlow, hlow, BitVec.getLsbD_of_ge w _ hout]
  · have hmod : (k + n) % 32 = k + n - 32 := by omega
    have hlt : k + n - 32 < n := by omega
    have hback : 32 - n + (k + n - 32) = k := by omega
    simp [hmod, hlt, hback]

/-! ### The obligations -/

/-- Settles O52: the oldest move keeps the invariant, whatever it is. -/
theorem stepKeepsInvariant : Obligations.StepKeepsInvariant := fun _ _ => step_inv

/-- Settles O51: nothing is written, and MAXLEN is in its range for every value of the open parameter. -/
theorem resetMeetsInvariant : Obligations.ResetMeetsInvariant := reset_inv

/-- Settles O33: a word and its four bytes determine each other; the formula of R10 is `wordAt` itself. -/
theorem wordsAndBytesAreInverse : Obligations.WordsAndBytesAreInverse :=
  ⟨words_bytes, fun _ => bytes_words, fun _ _ _ _ => rfl, by decide⟩

/-- Settles O60, by whether bit `k` wraps past bit 31. -/
theorem rotationMovesBits : Obligations.RotationMovesBits := fun w _ _ => getLsbD_rotl w

end Sys2Proof.Machine
end

section
/-! PROOFS. What a command word does, said once for all seven commands: the checks of 60_exceptions.md R135 as one relation, and
a completed command as its slots and its result bytes (10_state.md section 3, R17, R18; 20_memory.md R41); then the control
registers (R23 to R26) and what hides the subkeys (R16, R17, R139). -/

namespace Sys2Proof.Machine

variable {s s' t : State} {i : Instr} {w : Word}

/-! ### The checks of R135 -/

/-- The command fails, and `e` is the error of the first check of R135 that fails. -/
def FailsCheck (s : State) (i : Instr) (e : ErrCode) : Prop :=
  (¬ SlotsPresent s i ∧ e = .noKey) ∨ (SlotsPresent s i ∧ LengthError s.maxLen i e)

theorem lengthError_unique {m : Nat} {e e' : ErrCode} (h : LengthError m i e) (h' : LengthError m i e') : e = e' := by
  cases i with
  | cnew | cenc | cdec | mnew => exact h.2.trans h'.2.symm
  | menc n | mdec n =>
    obtain ⟨hlt, he⟩ | ⟨hge, -, he⟩ := h <;> obtain ⟨hlt', he'⟩ | ⟨hge', -, he'⟩ := h'
    · exact he.trans he'.symm
    · omega
    · omega
    · exact he.trans he'.symm
  | cdrop => exact h.elim

theorem lengthError_ne_none {m : Nat} {e : ErrCode} (h : LengthError m i e) : e ≠ .none := by
  rintro rfl
  cases i <;> simp [LengthError] at h

theorem FailsCheck.unique {e e' : ErrCode} (h : FailsCheck s i e) (h' : FailsCheck s i e') : e = e' := by
  obtain ⟨hs, rfl⟩ | ⟨hs, hl⟩ := h <;> obtain ⟨hs', rfl⟩ | ⟨hs', hl'⟩ := h'
  · rfl
  · exact absurd hs' hs
  · exact absurd hs hs'
  · exact lengthError_unique hl hl'

theorem FailsCheck.ne_none {e : ErrCode} : FailsCheck s i e → e ≠ .none
  | .inl ⟨_, he⟩ => he ▸ nofun
  | .inr ⟨_, hl⟩ => lengthError_ne_none hl

theorem FailsCheck.not_succeeds {e : ErrCode} : FailsCheck s i e → ¬ Succeeds s i
  | .inl ⟨hs, _⟩, h => hs h.1
  | .inr ⟨_, hl⟩, h => h.2 _ hl

/-- The checks look at the valid bits and MAXLEN only. -/
theorem failsCheck_congr (hv : ∀ sl, s'.rkv sl = s.rkv sl) (hm : s'.maxLen = s.maxLen) (e : ErrCode) :
    FailsCheck s' i e ↔ FailsCheck s i e := by
  have hslots : SlotsPresent s' i ↔ SlotsPresent s i := by
    cases i with
    | cenc sl | cdec sl => simp only [SlotsPresent, hv]
    | menc | mdec => simp only [SlotsPresent, show s'.rkvD = s.rkvD from hv .D, show s'.rkvT = s.rkvT from hv .T]
    | cnew | mnew | cdrop => exact Iff.rfl
  simp only [FailsCheck, hslots, hm]

/-! ### Which commands succeed -/

@[simp] theorem succeeds_cnew (sl : Slot) (n : Nat) : Succeeds s (.cnew sl n) ↔ n = 16 := by
  simp [Succeeds, SlotsPresent, LengthError]
@[simp] theorem succeeds_mnew (n : Nat) : Succeeds s (.mnew n) ↔ n = 32 := by
  simp [Succeeds, SlotsPresent, LengthError]
@[simp] theorem succeeds_cdrop (sl : Slot) : Succeeds s (.cdrop sl) := ⟨trivial, nofun⟩

theorem succeeds_cenc (sl : Slot) (n : Nat) : Succeeds s (.cenc sl n) ↔ s.rkv sl = true ∧ n = 16 := by
  simp [Succeeds, SlotsPresent, LengthError]

theorem succeeds_menc (n : Nat) :
    Succeeds s (.menc n) ↔ (s.rkvD = true ∧ s.rkvT = true) ∧ 16 ≤ n ∧ n ≤ s.maxLen := by
  refine and_congr_right fun _ => ⟨fun h => ?_, ?_⟩
  · have hge : 16 ≤ n := not_lt.mp fun hlt => h _ (.inl ⟨hlt, rfl⟩)
    exact ⟨hge, not_lt.mp fun hlt => h _ (.inr ⟨hge, hlt, rfl⟩)⟩
  · rintro ⟨hge, hle⟩ e (⟨hlt, -⟩ | ⟨-, hlt, -⟩) <;> omega

/-! ### A command that completes -/

/-- The bytes a completed command leaves in `OBUF` from offset 0 on. -/
def resultBytes (s : State) : Instr → List Byte
  | .cenc sl _ => encBlock (s.rk sl) (firstOperand s)
  | .cdec sl _ => decBlock (s.rk sl) (firstOperand s)
  | .menc n => process .enc s.rkD s.rkT (tweakOperand s) (modeInput s n)
  | .mdec n => process .dec s.rkD s.rkT (tweakOperand s) (modeInput s n)
  | .cnew _ _ | .mnew _ | .cdrop _ => []

/-- The state with the slots as a completed command leaves them. -/
def updateSlots (s : State) : Instr → State
  | .cnew sl _ => s.setSlot sl (expand (firstOperand s)) true
  | .mnew _ => (s.setSlot .D (expand (firstOperand s)) true).setSlot .T (expand (secondOperand s)) true
  | .cdrop sl => s.setSlot sl (Vector.replicate 32 0) false
  | .cenc _ _ | .cdec _ _ | .menc _ | .mdec _ => s

/-- The state after a command that passes its checks. -/
def completed (s : State) (i : Instr) : State :=
  (memWrite .obuf 0 (resultBytes s i) (updateSlots s i)).setStatus .none (BitVec.ofNat 24 (resultLength i))

/-- CENC, and CDEC, whose checks are the same: the error of the first check that fails, or the result of `f`. -/
theorem blockCommand_checked (f : Vector Word 32 → List Byte → List Byte) (sl : Slot) (n : Nat) (s : State) :
    (Succeeds s (.cenc sl n) ∧ blockCommand f sl n s =
      .next ((memWrite .obuf 0 (f (s.rk sl) (firstOperand s)) s).setStatus .none 16)) ∨
    ∃ e, FailsCheck s (.cenc sl n) e ∧ blockCommand f sl n s = .next (s.setStatus e 0) := by
  obtain ⟨hv, heq⟩ | ⟨hv, hn, heq⟩ | ⟨hv, hn, heq⟩ := blockCommand_cases f sl n s
  · exact .inr ⟨_, .inl ⟨by simp [SlotsPresent, hv], rfl⟩, heq⟩
  · exact .inr ⟨_, .inr ⟨hv, hn, rfl⟩, heq⟩
  · exact .inl ⟨(succeeds_cenc sl n).mpr ⟨hv, hn⟩, heq⟩

/-- MENC, and MDEC, whose checks are the same. -/
theorem modeStep_checked (dir : Dir) (n : Nat) (s : State) :
    (Succeeds s (.menc n) ∧ modeStep dir n s =
      .next ((memWrite .obuf 0 (process dir s.rkD s.rkT (tweakOperand s) (modeInput s n)) s).setStatus .none
        (BitVec.ofNat 24 n))) ∨
    ∃ e, FailsCheck s (.menc n) e ∧ modeStep dir n s = .next (s.setStatus e 0) := by
  obtain ⟨hv, heq⟩ | ⟨hD, hT, hn, heq⟩ | ⟨hD, hT, hn, hm, heq⟩ | ⟨hD, hT, hn, hm, heq⟩ := modeStep_cases dir n s
  · refine .inr ⟨_, .inl ⟨fun ⟨hD, hT⟩ => ?_, rfl⟩, heq⟩
    simp [hD, hT] at hv
  · exact .inr ⟨_, .inr ⟨⟨hD, hT⟩, .inl ⟨hn, rfl⟩⟩, heq⟩
  · exact .inr ⟨_, .inr ⟨⟨hD, hT⟩, .inr ⟨hn, hm, rfl⟩⟩, heq⟩
  · exact .inl ⟨(succeeds_menc n).mpr ⟨⟨hD, hT⟩, hn, hm⟩, heq⟩

/-- What a command does: it completes, or it reports the first check that fails and does nothing else (R127, R135). -/
theorem exec_cases (i : Instr) (s : State) :
    (Succeeds s i ∧ exec i s = .next (completed s i)) ∨
    ∃ e, FailsCheck s i e ∧ exec i s = .next (s.setStatus e 0) := by
  cases i with
  | cnew sl n =>
    obtain ⟨hn, heq⟩ | ⟨hn, heq⟩ := execCnew_cases sl n s
    · exact .inr ⟨_, .inr ⟨trivial, hn, rfl⟩, heq⟩
    · exact .inl ⟨(succeeds_cnew sl n).mpr hn, heq⟩
  | cenc sl n => exact blockCommand_checked encBlock sl n s
  | cdec sl n => exact blockCommand_checked decBlock sl n s
  | mnew n =>
    obtain ⟨hn, heq⟩ | ⟨hn, heq⟩ := execMnew_cases n s
    · exact .inr ⟨_, .inr ⟨trivial, hn, rfl⟩, heq⟩
    · exact .inl ⟨(succeeds_mnew n).mpr hn, heq⟩
  | menc n => exact modeStep_checked .enc n s
  | mdec n => exact modeStep_checked .dec n s
  | cdrop sl => exact .inl ⟨succeeds_cdrop sl, execCdrop_eq sl s⟩

theorem exec_of_succeeds (h : Succeeds s i) : exec i s = .next (completed s i) := by
  obtain ⟨-, heq⟩ | ⟨e, hf, -⟩ := exec_cases i s
  · exact heq
  · exact absurd h hf.not_succeeds

theorem exec_of_failsCheck {e : ErrCode} (h : FailsCheck s i e) : exec i s = .next (s.setStatus e 0) := by
  obtain ⟨hs, -⟩ | ⟨e', hf, heq⟩ := exec_cases i s
  · exact absurd hs h.not_succeeds
  · rw [heq, h.unique hf]

/-! ### What a completed command leaves -/

@[simp] theorem completed_err : (completed s i).err = .none := rfl

@[simp] theorem completed_olen : (completed s i).olen = BitVec.ofNat 24 (resultLength i) := rfl

@[simp] theorem completed_rk (sl : Slot) : (completed s i).rk sl = (updateSlots s i).rk sl := by simp [completed]

@[simp] theorem completed_rkv (sl : Slot) : (completed s i).rkv sl = (updateSlots s i).rkv sl := by simp [completed]

theorem resultBytes_length (h : Succeeds s i) : (resultBytes s i).length = resultLength i := by
  cases i with
  | cenc => exact encBlock_length _ _
  | cdec => exact decBlock_length _ _
  | menc n => exact modeOutput_length .enc s n ((succeeds_menc n).mp h).2.1
  | mdec n => exact modeOutput_length .dec s n ((succeeds_menc n).mp h).2.1
  | cnew | mnew | cdrop => rfl

theorem updateSlots_readByte (s : State) (i : Instr) (sp : Space) (off : Nat) :
    (updateSlots s i).readByte sp off = s.readByte sp off := by
  cases i <;> simp [updateSlots]

theorem updateSlots_sameRest (s : State) (i : Instr) : SameRest s (updateSlots s i) := by
  cases i <;> simp [updateSlots, SameRest]

/-- The frame of a completed command (R41): of the buffers it writes the result bytes only. -/
theorem completed_sameBytesBut (h : Succeeds s i) : SameBytesBut (resultLength i) s (completed s i) := by
  intro sp off hout
  have hmiss : ¬ (sp = .obuf ∧ 0 ≤ off ∧ off < 0 + (resultBytes s i).length) := by
    rwa [resultBytes_length h, zero_add, and_iff_right (Nat.zero_le off)]
  rw [completed, readByte_setStatus, readByte_memWrite, if_neg hmiss, updateSlots_readByte]

theorem completed_sameRest (s : State) (i : Instr) : SameRest s (completed s i) := by
  simpa [completed, SameRest] using updateSlots_sameRest s i

theorem setStatus_sameRest (s : State) (e : ErrCode) (n : BitVec 24) : SameRest s (s.setStatus e n) := ⟨rfl, rfl, rfl, rfl⟩

theorem setStatus_sameBytesBut (s : State) (e : ErrCode) (n : BitVec 24) (k : Nat) : SameBytesBut k s (s.setStatus e n) :=
  fun sp off _ => readByte_setStatus s e n sp off

/-! ### Command words -/

theorem runWord_ok (h : decode w = .ok i) (s : State) : runWord w s = exec i s := by
  simp only [runWord, h]

theorem runWord_error {e : Illegal} (h : decode w = .error e) (s : State) :
    runWord w s = .next (s.setStatus .illegalCommand 0) := by
  simp only [runWord, h, raise_eq]

/-- The command word that fails, illegal or failing a check of its command. -/
def WordFails (s : State) (w : Word) : Prop := ∀ i, decode w = .ok i → ¬ Succeeds s i

/-- What a command word does (R23, R127, R132). -/
theorem runWord_cases (w : Word) (s : State) :
    (∃ i, decode w = .ok i ∧ Succeeds s i ∧ runWord w s = .next (completed s i)) ∨
    (WordFails s w ∧ ∃ e, e ≠ .none ∧ runWord w s = .next (s.setStatus e 0)) := by
  cases hd : decode w with
  | ok i =>
    obtain ⟨hs, heq⟩ | ⟨e, hf, heq⟩ := exec_cases i s
    · exact .inl ⟨i, rfl, hs, (runWord_ok hd s).trans heq⟩
    · refine .inr ⟨fun j hj => ?_, e, hf.ne_none, (runWord_ok hd s).trans heq⟩
      cases hd.symm.trans hj
      exact hf.not_succeeds
  | error e =>
    exact .inr ⟨by simp [WordFails, hd], .illegalCommand, nofun, runWord_error hd s⟩

theorem modeCommand_eq_ok {b : BitVec 1} {j : Instr} (h : modeCommand b j = .ok i) : j = i := by
  unfold modeCommand at h
  split at h <;> cases h
  rfl

/-- The length of a decoded command is the 24-bit field of its word (R54, R57). -/
theorem decode_len (h : decode w = .ok i) : i.len = (lenField w).toNat := by
  dsimp only [decode] at h
  split_ifs at h with _ _ _ _ _ _ _ _ hlen
  · cases h; rfl
  · cases h; rfl
  · cases h; rfl
  · cases modeCommand_eq_ok h; rfl
  · cases modeCommand_eq_ok h; rfl
  · cases modeCommand_eq_ok h; rfl
  · cases h; exact hlen.symm

/-- The result of a decoded command that succeeds is counted by the 24 bits of `OLEN`. -/
theorem resultLength_lt (h : decode w = .ok i) : resultLength i < 2 ^ 24 := by
  have hlen : i.len < 2 ^ 24 := decode_len h ▸ (lenField w).isLt
  cases i with
  | menc | mdec => exact hlen
  | cenc | cdec => exact (by decide : 16 < 2 ^ 24)
  | cnew | mnew | cdrop => exact Nat.two_pow_pos 24

theorem completed_olen_toNat (h : decode w = .ok i) : (completed s i).olen.toNat = resultLength i :=
  Nat.mod_eq_of_lt (resultLength_lt h)

/-! ### Slots after a command (R17, R18) -/

theorem updateSlots_rk (s : State) (i : Instr) (sl : Slot) :
    (updateSlots s i).rk sl = s.rk sl ∨ (∃ n, i = .cnew sl n) ∨ (∃ n, i = .mnew n) ∨ i = .cdrop sl := by
  cases i with
  | cnew sl' n =>
    by_cases h : sl = sl'
    · exact .inr (.inl ⟨n, h ▸ rfl⟩)
    · exact .inl (by simp [updateSlots, h])
  | mnew n => exact .inr (.inr (.inl ⟨n, rfl⟩))
  | cdrop sl' =>
    by_cases h : sl = sl'
    · exact .inr (.inr (.inr (h ▸ rfl)))
    · exact .inl (by simp [updateSlots, h])
  | cenc | cdec | menc | mdec => exact .inl rfl

theorem updateSlots_rkv (h : Succeeds s i) (sl : Slot) :
    (updateSlots s i).rkv sl = true ↔
      i = .cnew sl 16 ∨ i = .mnew 32 ∨ (s.rkv sl = true ∧ i ≠ .cdrop sl) := by
  cases i with
  | cnew sl' n =>
    cases (succeeds_cnew sl' n).mp h
    by_cases hsl : sl' = sl
    · simp [updateSlots, hsl]
    · simp [updateSlots, hsl, Ne.symm hsl]
  | mnew n =>
    cases (succeeds_mnew n).mp h
    cases sl <;> simp [updateSlots]
  | cdrop sl' =>
    by_cases hsl : sl' = sl
    · simp [updateSlots, hsl]
    · simp [updateSlots, hsl, Ne.symm hsl]
  | cenc | cdec | menc | mdec => simp [updateSlots]

/-- A command that works on no slot changes none, whether it succeeds or not. -/
theorem exec_sameSlots (h : updateSlots s i = s) : ∃ t, exec i s = .next t ∧ SameSlots s t := by
  obtain ⟨-, heq⟩ | ⟨e, -, heq⟩ := exec_cases i s
  · exact ⟨_, heq, fun sl => by simp [h]⟩
  · exact ⟨_, heq, fun sl => by simp⟩

/-! ### ERR is read by no command (R26) -/

theorem exec_setStatus (i : Instr) (s : State) (e : ErrCode) (n : BitVec 24) : exec i (s.setStatus e n) = exec i s := by
  cases i with
  | cnew sl | cdrop sl => cases sl <;> rfl
  | cenc | cdec | mnew | menc | mdec => rfl

theorem runWord_setStatus (w : Word) (s : State) (e : ErrCode) (n : BitVec 24) :
    runWord w (s.setStatus e n) = runWord w s := by
  cases hd : decode w with
  | ok i => rw [runWord_ok hd, runWord_ok hd, exec_setStatus]
  | error => rw [runWord_error hd, runWord_error hd]; rfl

/-! ### Moves -/

theorem step_eq_makeMove {mv : HostMove} {rest : List HostMove} (h : s.moves = mv :: rest) :
    step s = makeMove mv (s.setMoves rest) := by
  simp only [step, h]

/-- A host access other than a command changes nothing, answers, or writes one byte of TWK or IBUF (R36, R42). -/
theorem makeMove_access_cases {mv : HostMove} (hr : mv ≠ .reset) (hc : ∀ w, mv ≠ .writeCsr 0 w)
    (h : makeMove mv s = .next t) :
    t = s ∨ (∃ a, t = s.addAnswer a) ∨ ∃ sp off b, sp ≠ .obuf ∧ t = s.writeByte sp off b := by
  cases mv with
  | writeByte sp off b =>
    dsimp only [makeMove, hostWriteByte] at h
    split_ifs at h
    cases sp with
    | obuf => cases h; exact .inl rfl
    | twk | ibuf => cases h; exact .inr (.inr ⟨_, off, b, by decide, rfl⟩)
  | readByte sp off =>
    dsimp only [makeMove, hostReadByte] at h
    split_ifs at h
    cases h
    exact .inr (.inl ⟨_, rfl⟩)
  | writeCsr n w =>
    match n with
    | 0 => exact absurd rfl (hc w)
    | 1 | 2 => cases h; exact .inl rfl
    | _ + 3 => cases h
  | readCsr n =>
    dsimp only [makeMove, hostReadCsr] at h
    split at h <;> cases h
    exact .inr (.inl ⟨_, rfl⟩)
  | reset => exact absurd rfl hr

/-! ### STATUS and OLEN (R24, R25) -/

/-- STATUS, field by field from bit 31 down (R24). -/
theorem statusWord_eq_append (s : State) :
    statusWord s = 0#26 ++ BitVec.ofBool s.rkvT ++ BitVec.ofBool s.rkvD ++ s.err.code := by
  rw [← BitVec.setWidth_eq (0#26 ++ BitVec.ofBool s.rkvT ++ BitVec.ofBool s.rkvD ++ s.err.code),
    BitVec.setWidth_append_append_append_eq_shiftLeft_setWidth_or]
  simp [statusWord]

theorem statusWord_fields (s : State) :
    (statusWord s).extractLsb' 0 4 = s.err.code ∧ (statusWord s).extractLsb' 4 1 = BitVec.ofBool s.rkvD ∧
      (statusWord s).extractLsb' 5 1 = BitVec.ofBool s.rkvT ∧ (statusWord s).extractLsb' 6 26 = 0 := by
  rw [statusWord_eq_append]
  refine ⟨BitVec.extractLsb'_append_eq_right, ?_, ?_, ?_⟩
  · exact (BitVec.extractLsb'_append_eq_of_le (by decide)).trans BitVec.extractLsb'_append_eq_right
  · calc (0#26 ++ BitVec.ofBool s.rkvT ++ BitVec.ofBool s.rkvD ++ s.err.code : BitVec 32).extractLsb' 5 1
      _ = (0#26 ++ BitVec.ofBool s.rkvT ++ BitVec.ofBool s.rkvD).extractLsb' 1 1 :=
        BitVec.extractLsb'_append_eq_of_le (by decide)
      _ = (0#26 ++ BitVec.ofBool s.rkvT).extractLsb' 0 1 := BitVec.extractLsb'_append_eq_of_le (by decide)
      _ = BitVec.ofBool s.rkvT := BitVec.extractLsb'_append_eq_right
  · calc (0#26 ++ BitVec.ofBool s.rkvT ++ BitVec.ofBool s.rkvD ++ s.err.code : BitVec 32).extractLsb' 6 26
      _ = (0#26 ++ BitVec.ofBool s.rkvT ++ BitVec.ofBool s.rkvD).extractLsb' 2 26 :=
        BitVec.extractLsb'_append_eq_of_le (by decide)
      _ = (0#26 ++ BitVec.ofBool s.rkvT).extractLsb' 1 26 := BitVec.extractLsb'_append_eq_of_le (by decide)
      _ = 0 := BitVec.extractLsb'_append_eq_left

/-- OLEN, field by field (R25). -/
theorem olenWord_fields (s : State) :
    (olenWord s).extractLsb' 0 24 = s.olen ∧ (olenWord s).extractLsb' 24 8 = 0 := by
  have happend : olenWord s = 0#8 ++ s.olen := BitVec.setWidth_eq_append (by decide)
  rw [happend]
  exact ⟨BitVec.extractLsb'_append_eq_right, BitVec.extractLsb'_append_eq_left⟩

/-! ### Hidden subkeys (R16, R17) -/

theorem sameButSubkeys_iff : SameButSubkeys s t ↔ ∃ kD kT, t = { s with rkD := kD, rkT := kT } :=
  ⟨fun h => ⟨_, _, h⟩, fun ⟨_, _, h⟩ => h ▸ rfl⟩

section
variable (h : SameButSubkeys s t)
include h

theorem SameButSubkeys.mem (sp : Space) : t.mem sp = s.mem sp := by
  obtain ⟨_, _, rfl⟩ := sameButSubkeys_iff.mp h
  cases sp <;> rfl

theorem SameButSubkeys.rkv (sl : Slot) : t.rkv sl = s.rkv sl := by
  obtain ⟨_, _, rfl⟩ := sameButSubkeys_iff.mp h
  cases sl <;> rfl

theorem SameButSubkeys.maxLen : t.maxLen = s.maxLen := (congrArg State.maxLen h :)

theorem SameButSubkeys.resets : t.resets = s.resets := (congrArg State.resets h :)

theorem SameButSubkeys.moves : t.moves = s.moves := (congrArg State.moves h :)

theorem SameButSubkeys.readByte (sp : Space) (off : Nat) : t.readByte sp off = s.readByte sp off :=
  readByte_congr (h.mem sp) h.resets off

theorem SameButSubkeys.memRead (sp : Space) (a n : Nat) : memRead t sp a n = memRead s sp a n :=
  memRead_congr (h.mem sp) h.resets a n

theorem SameButSubkeys.csrValue (n : Nat) : csrValue t n = csrValue s n := by
  obtain ⟨_, _, rfl⟩ := sameButSubkeys_iff.mp h
  rfl

end

/-- A relation between states that differ in subkeys only, kept by everything a host access or reset does to both. -/
structure KeptByAccesses (r : State → State → Prop) : Prop where
  sameButSubkeys : ∀ {s t}, r s t → SameButSubkeys s t
  setMoves : ∀ {s t}, r s t → ∀ ms, r (s.setMoves ms) (t.setMoves ms)
  addAnswer : ∀ {s t}, r s t → ∀ a, r (s.addAnswer a) (t.addAnswer a)
  setMem : ∀ {s t}, r s t → ∀ sp m, r (s.setMem sp m) (t.setMem sp m)
  applyReset : ∀ {s t}, r s t → r (applyReset s) (applyReset t)

section
variable {r : State → State → Prop} (hr : KeptByAccesses r)
include hr

theorem KeptByAccesses.writeByte (h : r s t) (sp : Space) (off : Nat) (b : Byte) :
    r (s.writeByte sp off b) (t.writeByte sp off b) := by
  rw [State.writeByte, State.writeByte, (hr.sameButSubkeys h).mem]
  exact hr.setMem h sp _

theorem KeptByAccesses.memWrite (h : r s t) (sp : Space) (a : Nat) (v : List Byte) :
    r (memWrite sp a v s) (memWrite sp a v t) := by
  rw [Machine.memWrite, Machine.memWrite, (hr.sameButSubkeys h).mem]
  exact hr.setMem h sp _

/-- No access but a CMD write looks at a subkey, so only a CMD write can tell the two states apart. -/
theorem KeptByAccesses.makeMove (h : r s t) (mv : HostMove)
    (hcmd : ∀ w, mv = .writeCsr 0 w → AlikeOutcomes r (runWord w s) (runWord w t)) :
    AlikeOutcomes r (makeMove mv s) (makeMove mv t) := by
  have hsub := hr.sameButSubkeys h
  cases mv with
  | writeByte sp off b =>
    dsimp only [Machine.makeMove, hostWriteByte]
    rw [size_congr hsub.maxLen]
    split_ifs
    · cases sp with
      | obuf => exact h
      | twk | ibuf => exact hr.writeByte h _ off b
    · rfl
  | readByte sp off =>
    dsimp only [Machine.makeMove, hostReadByte]
    rw [size_congr hsub.maxLen, hsub.readByte]
    split_ifs
    · exact hr.addAnswer h _
    · rfl
  | writeCsr n w =>
    match n with
    | 0 => exact hcmd w rfl
    | 1 | 2 => exact h
    | _ + 3 => rfl
  | readCsr n =>
    dsimp only [Machine.makeMove, hostReadCsr]
    rw [hsub.csrValue]
    split
    · exact hr.addAnswer h _
    · rfl
  | reset => exact hr.applyReset h

end

theorem sameButSubkeys_kept : KeptByAccesses SameButSubkeys where
  sameButSubkeys := id
  setMoves h _ := by obtain ⟨_, _, rfl⟩ := sameButSubkeys_iff.mp h; rfl
  addAnswer h _ := by obtain ⟨_, _, rfl⟩ := sameButSubkeys_iff.mp h; rfl
  setMem h sp _ := by obtain ⟨_, _, rfl⟩ := sameButSubkeys_iff.mp h; cases sp <;> rfl
  applyReset h := by obtain ⟨_, _, rfl⟩ := sameButSubkeys_iff.mp h; rfl

/-- Reset empties both slots, so nothing is left to agree on. -/
theorem sameButDeadSubkeys_kept : KeptByAccesses SameButDeadSubkeys where
  sameButSubkeys h := h.1
  setMoves h ms := ⟨sameButSubkeys_kept.setMoves h.1 ms, by simpa using h.2⟩
  addAnswer h a := ⟨sameButSubkeys_kept.addAnswer h.1 a, by simpa using h.2⟩
  setMem h sp m := ⟨sameButSubkeys_kept.setMem h.1 sp m, by simpa using h.2⟩
  applyReset h := ⟨sameButSubkeys_kept.applyReset h.1, fun sl hv => by cases sl <;> cases hv⟩

section
variable (h : SameButDeadSubkeys s s')
include h

theorem SameButDeadSubkeys.sameButSubkeys : SameButSubkeys s s' := h.1

theorem SameButDeadSubkeys.live {sl : Slot} (hv : s.rkv sl = true) : s'.rk sl = s.rk sl := h.2 sl hv

theorem SameButDeadSubkeys.setStatus (e : ErrCode) (n : BitVec 24) :
    SameButDeadSubkeys (s.setStatus e n) (s'.setStatus e n) := by
  obtain ⟨hsub, hlive⟩ := h
  refine ⟨?_, by simpa using hlive⟩
  obtain ⟨_, _, rfl⟩ := sameButSubkeys_iff.mp hsub
  rfl

/-- A slot that is written is the same on both sides, live or not. -/
theorem SameButDeadSubkeys.setSlot (sl : Slot) (k : Vector Word 32) (v : Bool) :
    SameButDeadSubkeys (s.setSlot sl k v) (s'.setSlot sl k v) := by
  obtain ⟨hsub, hlive⟩ := h
  constructor
  · obtain ⟨_, _, rfl⟩ := sameButSubkeys_iff.mp hsub
    cases sl <;> rfl
  · intro sl' hv
    by_cases hsl : sl' = sl
    · simp [hsl]
    · simpa [hsl] using hlive sl' (by simpa [hsl] using hv)

theorem SameButDeadSubkeys.updateSlots (i : Instr) : SameButDeadSubkeys (updateSlots s i) (updateSlots s' i) := by
  have hfirst : firstOperand s' = firstOperand s := h.sameButSubkeys.memRead _ _ _
  have hsecond : secondOperand s' = secondOperand s := h.sameButSubkeys.memRead _ _ _
  cases i with
  | cnew sl =>
    simp only [Machine.updateSlots, hfirst]
    exact h.setSlot sl _ _
  | mnew =>
    simp only [Machine.updateSlots, hfirst, hsecond]
    exact (h.setSlot .D _ _).setSlot .T _ _
  | cdrop sl => exact h.setSlot sl _ _
  | cenc | cdec | menc | mdec => exact h

/-- A command whose slots hold schedules computes from the same subkeys and the same bytes on both sides. -/
theorem SameButDeadSubkeys.resultBytes (hs : SlotsPresent s i) : resultBytes s' i = resultBytes s i := by
  have hsub := h.sameButSubkeys
  have hfirst : firstOperand s' = firstOperand s := hsub.memRead _ _ _
  have htweak : tweakOperand s' = tweakOperand s := hsub.memRead _ _ _
  have hinput : ∀ n, modeInput s' n = modeInput s n := fun n => hsub.memRead _ _ n
  cases i with
  | cenc sl | cdec sl => simp only [Machine.resultBytes, h.live hs, hfirst]
  | menc n | mdec n =>
    have hD : s'.rkD = s.rkD := h.live (sl := .D) hs.1
    have hT : s'.rkT = s.rkT := h.live (sl := .T) hs.2
    simp only [Machine.resultBytes, hD, hT, htweak, hinput]
  | cnew | mnew | cdrop => rfl

theorem SameButDeadSubkeys.completed (hs : SlotsPresent s i) :
    SameButDeadSubkeys (completed s i) (completed s' i) := by
  rw [Machine.completed, Machine.completed, h.resultBytes hs]
  exact (sameButDeadSubkeys_kept.memWrite (h.updateSlots i) .obuf 0 _).setStatus _ _

/-- A command checks for a schedule before it reads a subkey (R133), so a dead subkey reaches neither a result nor an error. -/
theorem SameButDeadSubkeys.exec (i : Instr) : AlikeOutcomes SameButDeadSubkeys (exec i s) (exec i s') := by
  have hchecks : ∀ e, FailsCheck s' i e ↔ FailsCheck s i e :=
    failsCheck_congr h.sameButSubkeys.rkv h.sameButSubkeys.maxLen
  obtain ⟨hs, heq⟩ | ⟨e, hf, heq⟩ := exec_cases i s
  · obtain ⟨-, heq'⟩ | ⟨e, hf', -⟩ := exec_cases i s'
    · rw [heq, heq']
      exact h.completed hs.1
    · exact absurd hs ((hchecks e).mp hf').not_succeeds
  · rw [heq, exec_of_failsCheck ((hchecks e).mpr hf)]
    exact h.setStatus e 0

theorem SameButDeadSubkeys.runWord (w : Word) : AlikeOutcomes SameButDeadSubkeys (runWord w s) (runWord w s') := by
  cases hd : decode w with
  | ok i => rw [runWord_ok hd, runWord_ok hd]; exact h.exec i
  | error => rw [runWord_error hd, runWord_error hd]; exact h.setStatus _ _

theorem SameButDeadSubkeys.step : AlikeOutcomes SameButDeadSubkeys (step s) (step s') := by
  cases hm : s.moves with
  | nil =>
    have hm' : s'.moves = [] := h.sameButSubkeys.moves.trans hm
    simp only [Machine.step, hm, hm']
    exact h
  | cons mv rest =>
    have hrest := sameButDeadSubkeys_kept.setMoves h rest
    rw [step_eq_makeMove hm, step_eq_makeMove (h.sameButSubkeys.moves.trans hm)]
    exact sameButDeadSubkeys_kept.makeMove hrest mv fun w _ => hrest.runWord w

end

/-! ### The obligations -/

/-- Settles O53: a command that needs a slot checks its valid bit first, and no other move looks at a subkey; the bytes after a
reset move are those the model draws (log entries 7 and 9). -/
theorem emptySlotSubkeysAreNeverRead : Obligations.EmptySlotSubkeysAreNeverRead := fun _ _ h => h.step

/-- Settles O54: every access but a CMD write is made of updates that keep the relation; so is reset, by the model's choice of
its draws (log entries 7 and 9). -/
theorem hostCannotReadSubkeys : Obligations.HostCannotReadSubkeys := by
  intro s s' mv rest h hm hcmd
  rw [step_eq_makeMove hm, step_eq_makeMove (h.moves.trans hm)]
  exact sameButSubkeys_kept.makeMove (sameButSubkeys_kept.setMoves h rest) mv fun w hw => absurd hw (hcmd w)

/-- Settles O8, by writing STATUS as its four fields side by side. -/
theorem statusShowsErrAndSlots : Obligations.StatusShowsErrAndSlots := by
  intro s rest
  obtain ⟨herr, hD, hT, hzero⟩ := statusWord_fields s
  exact ⟨fun h => step_eq_makeMove h, herr, hD, hT, hzero, fun w h => step_eq_makeMove h, rfl, rfl, rfl, rfl, rfl, rfl, rfl⟩

/-- Settles O9: a completed command counts its result bytes, which a decoded length keeps within 24 bits, and a failed one
leaves 0. -/
theorem olenIsResultLength : Obligations.OlenIsResultLength := by
  refine ⟨fun s rest => ?_, fun s w => ?_⟩
  · obtain ⟨holen, hzero⟩ := olenWord_fields s
    exact ⟨fun h => step_eq_makeMove h, holen, hzero, fun w h => step_eq_makeMove h⟩
  · obtain ⟨i, hd, hs, heq⟩ | ⟨hf, e, -, heq⟩ := runWord_cases w s
    · refine ⟨_, heq, fun j hj _ => ?_, fun j hj hns => ?_, fun e he => ?_⟩
      · cases hd.symm.trans hj
        exact completed_olen_toNat hd
      · cases hd.symm.trans hj
        exact absurd hs hns
      · cases hd.symm.trans he
    · exact ⟨_, heq, fun j hj hs => absurd hs (hf j hj), fun _ _ _ => rfl, fun _ _ => rfl⟩

/-- Settles O19: a completed command clears ERR and a failed one writes an error; the accesses write answers and bytes only. -/
theorem errIsOutcomeOfLastCommand : Obligations.ErrIsOutcomeOfLastCommand := by
  constructor
  · intro s w
    have hignored : ∀ e, runWord w { s with err := e } = runWord w s := fun e => runWord_setStatus w s e s.olen
    obtain ⟨i, hd, hs, heq⟩ | ⟨hf, e, he, heq⟩ := runWord_cases w s
    · exact ⟨_, heq, iff_of_true rfl ⟨i, hd, hs⟩, fun e => (hignored e).trans heq⟩
    · exact ⟨_, heq, iff_of_false he fun ⟨i, hd, hs⟩ => hf i hd hs, fun e => (hignored e).trans heq⟩
  · intro s t mv rest hm hr hc ht
    rw [step_eq_makeMove hm] at ht
    obtain rfl | ⟨a, rfl⟩ | ⟨sp, off, b, -, rfl⟩ := makeMove_access_cases hr hc ht
    · rfl
    · rfl
    · simp

/-- Settles O28, by what a completed command does to the slot; CNEW with 16, MNEW with 32 and CDROP never fail. -/
theorem validBitFollowsLifecycle : Obligations.ValidBitFollowsLifecycle := by
  intro s w sl
  obtain ⟨i, hd, hs, heq⟩ | ⟨hf, e, -, heq⟩ := runWord_cases w s
  · refine ⟨_, heq, ?_⟩
    simpa [hd] using updateSlots_rkv hs sl
  · have hcnew : decode w ≠ .ok (.cnew sl 16) := fun h => hf _ h (by simp)
    have hmnew : decode w ≠ .ok (.mnew 32) := fun h => hf _ h (by simp)
    have hcdrop : decode w ≠ .ok (.cdrop sl) := fun h => hf _ h (by simp)
    exact ⟨_, heq, by simp [hcnew, hmnew, hcdrop]⟩

/-- Settles O29: only the three commands on keys touch a slot, and two equal key halves expand alike. -/
theorem schedulesAreImmutable : Obligations.SchedulesAreImmutable := by
  refine ⟨fun s w sl => ?_, fun s sl n i hi => ?_, fun s hkeys => ?_⟩
  · obtain ⟨i, hd, hs, heq⟩ | ⟨hf, e, -, heq⟩ := runWord_cases w s
    · refine ⟨_, heq, ?_⟩
      rw [completed_rk, hd]
      obtain hrk | ⟨n, rfl⟩ | ⟨n, rfl⟩ | rfl := updateSlots_rk s i sl
      · exact .inl hrk
      · exact .inr (.inl (by rw [(succeeds_cnew sl n).mp hs]))
      · exact .inr (.inr (.inl (by rw [(succeeds_mnew n).mp hs])))
      · exact .inr (.inr (.inr rfl))
    · exact ⟨_, heq, .inl (by simp)⟩
  · have hkeep : updateSlots s i = s := by
      simp only [List.mem_cons, List.not_mem_nil, or_false] at hi
      obtain rfl | rfl | rfl | rfl := hi <;> rfl
    exact exec_sameSlots hkeep
  · refine ⟨_, exec_of_succeeds ((succeeds_mnew 32).mpr rfl), rfl, ?_⟩
    simp [completed, updateSlots, firstOperand, secondOperand, hkeys]

/-- Settles O50: a completed command writes its result bytes, which OLEN counts, and a failed one writes none. -/
theorem commandsWriteOnlyTheirResult : Obligations.CommandsWriteOnlyTheirResult := by
  intro s w
  obtain ⟨i, hd, hs, heq⟩ | ⟨-, e, -, heq⟩ := runWord_cases w s
  · refine ⟨_, heq, ?_, completed_sameRest s i⟩
    rw [completed_olen_toNat hd]
    exact completed_sameBytesBut hs
  · exact ⟨_, heq, setStatus_sameBytesBut s e 0 _, setStatus_sameRest s e 0⟩

/-- Settles O6, by decoding the word of the CMD write; that the later moves stay is the frame of O50. -/
theorem cmdWriteRunsTheDecodedCommand : Obligations.CmdWriteRunsTheDecodedCommand := by
  refine ⟨fun s w rest hm => ?_, fun s rest hm => step_eq_makeMove hm⟩
  have hstep : step s = runWord w (s.setMoves rest) := step_eq_makeMove hm
  refine ⟨fun i hd => ?_, fun e hd => ?_, ?_⟩
  · rw [hstep, runWord_ok hd]
  · rw [hstep, runWord_error hd]
    rfl
  · obtain ⟨t, ht, -, -, -, hmoves, -⟩ := commandsWriteOnlyTheirResult (s.setMoves rest) w
    exact ⟨t, hstep.trans ht, hmoves⟩

end Sys2Proof.Machine
end

section
/-! PROOFS. The host's accesses, case by case: an access that names a location completes and one that names none is refused
(20_memory.md R36, R43, R44); what reads, writes and repeated commands leave behind (R42). -/

namespace Sys2Proof.Machine

variable {s t : State} {sp : Space} {off n : Nat} {i : Instr} {rest : List HostMove}

/-! ### The accesses -/

theorem hostReadByte_of_lt (h : off < s.size sp) :
    hostReadByte sp off s = .next (s.addAnswer (.byte (s.readByte sp off))) := if_pos h

theorem hostReadByte_of_le (h : s.size sp ≤ off) : hostReadByte sp off s = .refused (.noSuchOffset sp off) :=
  if_neg h.not_gt

/-- Inside its space a write stores the byte, but for OBUF, which the host cannot write. -/
theorem hostWriteByte_of_lt (h : off < s.size sp) (b : Byte) :
    hostWriteByte sp off b s = .next (if sp = .obuf then s else s.writeByte sp off b) := by
  unfold hostWriteByte
  rw [if_pos h]
  cases sp <;> rfl

theorem hostWriteByte_of_le (h : s.size sp ≤ off) (b : Byte) :
    hostWriteByte sp off b s = .refused (.noSuchOffset sp off) := if_neg h.not_gt

theorem hostReadCsr_of_lt (h : n < 3) : ∃ w, hostReadCsr n s = .next (s.addAnswer (.word w)) :=
  match n, h with
  | 0, _ | 1, _ | 2, _ => ⟨_, rfl⟩

theorem hostReadCsr_of_le (h : 3 ≤ n) : hostReadCsr n s = .refused (.noSuchRegister n) :=
  match n, h with
  | _ + 3, _ => rfl

/-- A register write completes: CMD runs a command, which leaves the host's side alone, STATUS and OLEN ignore it. -/
theorem hostWriteCsr_of_lt (h : n < 3) (w : Word) :
    ∃ t, hostWriteCsr n w s = .next t ∧ SameRest s t ∧ (n ≠ 0 → t = s) := by
  match n, h with
  | 0, _ =>
    obtain ⟨t, ht, -, hrest⟩ := commandsWriteOnlyTheirResult s w
    exact ⟨t, ht, hrest, absurd rfl⟩
  | 1, _ | 2, _ => exact ⟨s, rfl, ⟨rfl, rfl, rfl, rfl⟩, fun _ => rfl⟩

theorem hostWriteCsr_of_le (h : 3 ≤ n) (w : Word) : hostWriteCsr n w s = .refused (.noSuchRegister n) :=
  match n, h with
  | _ + 3, _ => rfl

/-! ### Moves that name a location, and those that do not -/

@[simp] theorem size_setMoves (ms : List HostMove) (sp : Space) : (s.setMoves ms).size sp = s.size sp := size_congr rfl sp

@[simp] theorem namesLocation_setMoves (ms : List HostMove) (mv : HostMove) :
    NamesLocation (s.setMoves ms) mv ↔ NamesLocation s mv := by
  cases mv <;> simp [NamesLocation]

theorem makeMove_of_namesLocation {mv : HostMove} (h : NamesLocation s mv) :
    ∃ t, makeMove mv s = .next t ∧ t.moves = s.moves ∧ t.maxLen = s.maxLen := by
  cases mv with
  | writeByte sp off b =>
    refine ⟨_, hostWriteByte_of_lt h b, ?_⟩
    split <;> simp
  | readByte sp off => exact ⟨_, hostReadByte_of_lt h, rfl, rfl⟩
  | writeCsr n w =>
    obtain ⟨t, ht, ⟨hmax, -, hmoves, -⟩, -⟩ := hostWriteCsr_of_lt h w
    exact ⟨t, ht, hmoves, hmax⟩
  | readCsr n =>
    obtain ⟨w, hw⟩ := hostReadCsr_of_lt h
    exact ⟨_, hw, rfl, rfl⟩
  | reset => exact ⟨_, rfl, rfl, rfl⟩

theorem makeMove_of_not_namesLocation {mv : HostMove} (h : ¬ NamesLocation s mv) :
    ∃ r, makeMove mv s = .refused r := by
  cases mv with
  | writeByte sp off b => exact ⟨_, hostWriteByte_of_le (not_lt.mp h) b⟩
  | readByte sp off => exact ⟨_, hostReadByte_of_le (not_lt.mp h)⟩
  | writeCsr n w => exact ⟨_, hostWriteCsr_of_le (not_lt.mp h) w⟩
  | readCsr n => exact ⟨_, hostReadCsr_of_le (not_lt.mp h)⟩
  | reset => exact absurd trivial h

/-! ### What a byte write and a read leave -/

/-- The frame of a byte write: the byte written, unless it is one of OBUF, and nothing else. -/
theorem step_writeByte {b : Byte} (h : off < s.size sp) (hm : s.moves = .writeByte sp off b :: rest) :
    ∃ t, step s = .next t ∧
      (∀ sp' off', t.readByte sp' off' = if sp' = sp ∧ off' = off ∧ sp ≠ .obuf then b else s.readByte sp' off') ∧
      SameSlots s t ∧ t.err = s.err ∧ t.olen = s.olen ∧ SameRest (s.setMoves rest) t := by
  have hstep : step s = .next (if sp = .obuf then s.setMoves rest else (s.setMoves rest).writeByte sp off b) :=
    (step_eq_makeMove hm).trans (hostWriteByte_of_lt (by simpa using h) b)
  by_cases hsp : sp = .obuf
  · exact ⟨_, hstep, by simp [hsp, SameSlots, SameRest]⟩
  · exact ⟨_, hstep, by simp [hsp, readByte_writeByte, SameSlots, SameRest]⟩

/-- A read only adds its answer, which depends neither on the moves to come nor on the answers already given. -/
theorem makeMove_read {mv : HostMove} (hread : (∃ sp off, mv = .readByte sp off) ∨ ∃ n, mv = .readCsr n)
    (h : makeMove mv s = .next t) :
    ∃ a, t = s.addAnswer a ∧ ∀ ms as, makeMove mv { s with moves := ms, answers := as } =
      .next (State.addAnswer { s with moves := ms, answers := as } a) := by
  obtain ⟨sp, off, rfl⟩ | ⟨n, rfl⟩ := hread
  · dsimp only [makeMove, hostReadByte] at h
    split at h
    case isTrue hoff =>
      cases h
      exact ⟨_, rfl, fun ms as => hostReadByte_of_lt (s := { s with moves := ms, answers := as }) hoff⟩
    case isFalse => cases h
  · match n with
    | 0 | 1 | 2 => cases h; exact ⟨_, rfl, fun _ _ => rfl⟩
    | _ + 3 => cases h

/-! ### Updates that change nothing -/

theorem setSlot_eq_self {sl : Slot} {k : Vector Word 32} {v : Bool} (hk : s.rk sl = k) (hv : s.rkv sl = v) :
    s.setSlot sl k v = s := by
  subst hk hv
  cases sl <;> rfl

theorem memWrite_eq_self {a : Nat} {v : List Byte} (h : Memory.writeBytes (s.mem sp) a v = s.mem sp) :
    memWrite sp a v s = s := by
  rw [memWrite, h]
  cases sp <;> rfl

/-! ### A command run twice -/

/-- No command writes its operands: they stand in IBUF and TWK. -/
theorem memRead_completed (s : State) (i : Instr) (h : sp ≠ .obuf) (a n : Nat) :
    memRead (completed s i) sp a n = memRead s sp a n := by
  rw [completed, memRead_setStatus, memRead_memWrite_other _ h]
  exact memRead_eq fun k _ => updateSlots_readByte s i sp _

theorem slotsPresent_completed (h : SlotsPresent s i) : SlotsPresent (completed s i) i := by
  cases i with
  | cenc | cdec => simpa [SlotsPresent, updateSlots] using h
  | menc | mdec => simpa [SlotsPresent, completed, updateSlots] using h
  | cnew | mnew | cdrop => trivial

/-- A command that completed passes its checks again. -/
theorem succeeds_completed (h : Succeeds s i) : Succeeds (completed s i) i := by
  obtain ⟨hslots, hlen⟩ := h
  obtain ⟨hmax, -⟩ := completed_sameRest s i
  exact ⟨slotsPresent_completed hslots, by rwa [hmax]⟩

theorem resultBytes_completed (s : State) (i : Instr) : resultBytes (completed s i) i = resultBytes s i := by
  have hfirst : firstOperand (completed s i) = firstOperand s := memRead_completed s i (by decide) _ _
  have htweak : tweakOperand (completed s i) = tweakOperand s := memRead_completed s i (by decide) _ _
  have hinput : ∀ n, modeInput (completed s i) n = modeInput s n := fun n => memRead_completed s i (by decide) _ n
  cases i with
  | cenc | cdec => simp only [resultBytes, hfirst, completed_rk, updateSlots]
  | menc | mdec => simp only [resultBytes, htweak, hinput]; simp [completed, updateSlots]
  | cnew | mnew | cdrop => rfl

/-- The slots already hold what the command would write. -/
theorem updateSlots_completed (s : State) (i : Instr) : updateSlots (completed s i) i = completed s i := by
  have hfirst : firstOperand (completed s i) = firstOperand s := memRead_completed s i (by decide) _ _
  have hsecond : secondOperand (completed s i) = secondOperand s := memRead_completed s i (by decide) _ _
  cases i with
  | cnew sl n =>
    rw [updateSlots, hfirst]
    exact setSlot_eq_self (by simp [updateSlots]) (by simp [updateSlots])
  | mnew n =>
    rw [updateSlots, hfirst, hsecond, setSlot_eq_self (sl := .D) (by simp [updateSlots]) (by simp [updateSlots])]
    exact setSlot_eq_self (by simp [updateSlots]) (by simp [updateSlots])
  | cdrop sl => exact setSlot_eq_self (by simp [updateSlots]) (by simp [updateSlots])
  | cenc | cdec | menc | mdec => rfl

theorem completed_completed (s : State) (i : Instr) : completed (completed s i) i = completed s i := by
  have hobuf : memWrite .obuf 0 (resultBytes s i) (completed s i) = completed s i :=
    memWrite_eq_self (by simp [completed, writeBytes_twice])
  rw [completed, resultBytes_completed, updateSlots_completed, hobuf]
  rfl

/-- A word that completed completes again in the same state; one that failed fails again, since no command reads ERR or OLEN. -/
theorem runWord_twice (w : Word) (s : State) : ∃ t, runWord w s = .next t ∧ runWord w t = .next t := by
  obtain ⟨i, hd, hs, heq⟩ | ⟨-, e, -, heq⟩ := runWord_cases w s
  · refine ⟨_, heq, ?_⟩
    rw [runWord_ok hd, exec_of_succeeds (succeeds_completed hs), completed_completed]
  · exact ⟨_, heq, (runWord_setStatus w s e 0).trans heq⟩

/-! ### The obligations -/

/-- Settles O10: the move is taken off the list, then one access is made. -/
theorem hostAccessesOneLocation : Obligations.HostAccessesOneLocation := by
  refine ⟨fun s => ⟨rfl, rfl, rfl⟩, fun s sp off rest hoff hm => ?_, fun s sp off b rest => step_writeByte,
    fun s n rest hn => ⟨fun hm => ?_, fun w hm => ?_⟩⟩
  · rw [step_eq_makeMove hm, makeMove, hostReadByte_of_lt (by simpa using hoff), readByte_setMoves]
  · rw [step_eq_makeMove hm]
    exact hostReadCsr_of_lt hn
  · obtain ⟨t, ht, -, hignored⟩ := hostWriteCsr_of_lt (s := s.setMoves rest) hn w
    exact ⟨t, (step_eq_makeMove hm).trans ht, hignored⟩

/-- Settles O11: an offset past the end of its space and a register number above 2 are the refusing cases of the accesses. -/
theorem noLocationIsRefused : Obligations.NoLocationIsRefused := by
  refine ⟨fun s sp off rest hoff => ?_, fun s n rest hn => ?_⟩
  · have hoff' : (s.setMoves rest).size sp ≤ off := by simpa using hoff
    exact ⟨fun hm => (step_eq_makeMove hm).trans (hostReadByte_of_le hoff'),
      fun b hm => (step_eq_makeMove hm).trans (hostWriteByte_of_le hoff' b)⟩
  · exact ⟨fun hm => (step_eq_makeMove hm).trans (hostReadCsr_of_le hn),
      fun w hm => (step_eq_makeMove hm).trans (hostWriteCsr_of_le hn w)⟩

/-- Settles O12, by whether the move names a location: if so it completes with the rest of the list, if not it is refused. -/
theorem everyLocatedMoveCompletes : Obligations.EveryLocatedMoveCompletes := by
  intro s mv rest hm
  rw [step_eq_makeMove hm]
  by_cases hloc : NamesLocation s mv
  · obtain ⟨t, ht, hmoves, hmax⟩ := makeMove_of_namesLocation ((namesLocation_setMoves rest mv).mpr hloc)
    refine ⟨iff_of_true ⟨t, ht⟩ hloc, fun t' ht' => ?_⟩
    cases ht.symm.trans ht'
    exact ⟨hmoves, hmax⟩
  · obtain ⟨r, hr⟩ := makeMove_of_not_namesLocation (mt (namesLocation_setMoves rest mv).mp hloc)
    simp [hr, hloc]

/-- Settles O13: a read adds its answer only, a byte write has the frame of O10, and a command reads nothing that it writes. -/
theorem sideEffectsOfHostAccesses : Obligations.SideEffectsOfHostAccesses := by
  refine ⟨fun s t mv rest hm hread ht => ?_, fun s sp off b rest hsp hoff hm => ?_, fun s w => runWord_twice w s⟩
  · obtain ⟨a, rfl, hrepeat⟩ := makeMove_read hread ((step_eq_makeMove hm).symm.trans ht)
    exact ⟨a, rfl, fun rest' => hrepeat rest' _⟩
  · obtain ⟨t, ht, hread, hframe⟩ := step_writeByte hoff hm
    exact ⟨t, ht, by simp [hread, hsp], fun sp' off' hne => by simp [hread, hsp, hne], hframe⟩

end Sys2Proof.Machine
end

section
/-! PROOFS. The encoding (30_encoding.md): a word is its four fields (R54); what the decoder answers and which words it accepts,
in terms of these fields (R55 to R61); PUT and GET of the listing notation as runs of the machine (R63). -/

namespace Sys2Proof.Machine

section

variable {w w' : Word} {i : Instr} {r : OpcodeRow}

/-! ### A word is its four fields (R54) -/

theorem word_eq_append_fields (w : Word) : w = lenField w ++ rsvField w ++ slotField w ++ opField w := by
  have hlr : lenField w ++ rsvField w = w.extractLsb' 5 27 := BitVec.extractLsb'_append_extractLsb'_eq_extractLsb' rfl
  have hlrs : w.extractLsb' 5 27 ++ slotField w = w.extractLsb' 4 28 :=
    BitVec.extractLsb'_append_extractLsb'_eq_extractLsb' rfl
  have hlrso : w.extractLsb' 4 28 ++ opField w = w.extractLsb' 0 32 :=
    BitVec.extractLsb'_append_extractLsb'_eq_extractLsb' rfl
  rw [hlr, hlrs, hlrso, BitVec.extractLsb'_eq_self]

theorem word_eq_iff_fields : w = w' ↔
    rsvField w = rsvField w' ∧ opField w = opField w' ∧ slotField w = slotField w' ∧ lenField w = lenField w' := by
  refine ⟨fun h => h ▸ ⟨rfl, rfl, rfl, rfl⟩, fun ⟨hrsv, hop, hslot, hlen⟩ => ?_⟩
  rw [word_eq_append_fields w, word_eq_append_fields w', hop, hslot, hrsv, hlen]

/-- A mask and a pattern are compared field by field. -/
theorem matches_iff_fields : r.Matches w ↔
    rsvField w &&& rsvField r.mask = rsvField r.pattern ∧ opField w &&& opField r.mask = opField r.pattern ∧
      slotField w &&& slotField r.mask = slotField r.pattern ∧ lenField w &&& lenField r.mask = lenField r.pattern := by
  simp only [OpcodeRow.Matches, word_eq_iff_fields, rsvField, opField, slotField, lenField, BitVec.extractLsb'_and]

/-! ### What the decoder answers (R55 to R57, R61) -/

@[simp] theorem slotOfBit_bitOfSlot (sl : Slot) : slotOfBit (bitOfSlot sl) = sl := by cases sl <;> rfl

@[simp] theorem bitOfSlot_slotOfBit (b : BitVec 1) : bitOfSlot (slotOfBit b) = b := by
  obtain rfl | rfl := BitVec.eq_zero_or_eq_one b <;> rfl

@[simp] theorem modeCommand_eq_ok_iff {b : BitVec 1} {j : Instr} : modeCommand b j = .ok i ↔ b = 0 ∧ j = i := by
  unfold modeCommand
  split <;> simp_all

/-- A word decodes to `i` exactly when its fields are those that `encode i` packs. -/
theorem decode_eq_ok_iff : decode w = .ok i ↔
    rsvField w = 0 ∧ opField w = i.opcode ∧ slotField w = bitOfSlot i.slot ∧ (lenField w).toNat = i.len := by
  constructor
  · intro h
    have hlen := (decode_len h).symm
    dsimp only [decode] at h
    have hrsv : rsvField w = 0 := by
      by_contra hne
      rw [if_pos hne] at h
      cases h
    suffices hfields : opField w = i.opcode ∧ slotField w = bitOfSlot i.slot by
      obtain ⟨hop, hslot⟩ := hfields
      exact ⟨hrsv, hop, hslot, hlen⟩
    rw [if_neg (not_not.mpr hrsv)] at h
    split_ifs at h with h1 h2 h3 h4 h5 h6 h7
    · cases h; exact ⟨h1, (bitOfSlot_slotOfBit _).symm⟩
    · cases h; exact ⟨h2, (bitOfSlot_slotOfBit _).symm⟩
    · cases h; exact ⟨h3, (bitOfSlot_slotOfBit _).symm⟩
    · obtain ⟨hslot, rfl⟩ := modeCommand_eq_ok_iff.mp h; exact ⟨h4, hslot⟩
    · obtain ⟨hslot, rfl⟩ := modeCommand_eq_ok_iff.mp h; exact ⟨h5, hslot⟩
    · obtain ⟨hslot, rfl⟩ := modeCommand_eq_ok_iff.mp h; exact ⟨h6, hslot⟩
    · cases h; exact ⟨h7, (bitOfSlot_slotOfBit _).symm⟩
  · rintro ⟨hrsv, hop, hslot, hlen⟩
    have hslot' : slotOfBit (slotField w) = i.slot := by rw [hslot, slotOfBit_bitOfSlot]
    cases i with
    | cnew | cenc | cdec | cdrop => simp [decode, hrsv, hop, hslot', hlen, Instr.opcode, Instr.slot, Instr.len]
    | mnew | menc | mdec => simp [decode, hrsv, hop, hslot, hlen, Instr.opcode, Instr.slot, Instr.len, bitOfSlot]

/-! ### Legal words (R59) -/

/-- None of R59's five conditions holds. -/
def IsLegal (w : Word) : Prop :=
  (opField w).toNat ≠ 0 ∧ (opField w).toNat < 8 ∧ rsvField w = 0 ∧
    ((opField w).toNat = 4 ∨ (opField w).toNat = 5 ∨ (opField w).toNat = 6 → slotField w = 0) ∧
    ((opField w).toNat = 7 → (lenField w).toNat = 0)

theorem exists_decode_ok_iff : (∃ i, decode w = .ok i) ↔ IsLegal w := by
  constructor
  · rintro ⟨i, h⟩
    obtain ⟨hrsv, hop, hslot, hlen⟩ := decode_eq_ok_iff.mp h
    rw [IsLegal, hrsv, hop, hslot, hlen]
    cases i <;> simp [Instr.opcode, Instr.slot, Instr.len, bitOfSlot]
  · rintro ⟨h0, h8, hrsv, hmode, hdrop⟩
    have hop : ∀ n : Nat, (opField w).toNat = n → opField w = BitVec.ofNat 4 n := fun n h => by simp [← h]
    have hslot : slotField w = bitOfSlot (slotOfBit (slotField w)) := (bitOfSlot_slotOfBit _).symm
    have hcases : (opField w).toNat = 1 ∨ (opField w).toNat = 2 ∨ (opField w).toNat = 3 ∨ (opField w).toNat = 4 ∨
        (opField w).toNat = 5 ∨ (opField w).toNat = 6 ∨ (opField w).toNat = 7 := by omega
    obtain h | h | h | h | h | h | h := hcases
    · exact ⟨.cnew _ _, decode_eq_ok_iff.mpr ⟨hrsv, hop 1 h, hslot, rfl⟩⟩
    · exact ⟨.cenc _ _, decode_eq_ok_iff.mpr ⟨hrsv, hop 2 h, hslot, rfl⟩⟩
    · exact ⟨.cdec _ _, decode_eq_ok_iff.mpr ⟨hrsv, hop 3 h, hslot, rfl⟩⟩
    · exact ⟨.mnew _, decode_eq_ok_iff.mpr ⟨hrsv, hop 4 h, hmode (by simp [h]), rfl⟩⟩
    · exact ⟨.menc _, decode_eq_ok_iff.mpr ⟨hrsv, hop 5 h, hmode (by simp [h]), rfl⟩⟩
    · exact ⟨.mdec _, decode_eq_ok_iff.mpr ⟨hrsv, hop 6 h, hmode (by simp [h]), rfl⟩⟩
    · exact ⟨.cdrop _, decode_eq_ok_iff.mpr ⟨hrsv, hop 7 h, hslot, hdrop h⟩⟩

theorem exists_decode_error_iff : (∃ e, decode w = .error e) ↔ ¬ IsLegal w := by
  rw [← exists_decode_ok_iff]
  cases decode w <;> simp

/-! ### The opcode map (R58) -/

/-- The table, field by field: every row fixes an assigned `op` and a zero `rsv`, the mode rows fix a zero `slot` too, the
row of CDROP a zero `len`. -/
theorem opcodeMap_fields : ∀ r ∈ opcodeMap,
    ((opField r.pattern).toNat ≠ 0 ∧ (opField r.pattern).toNat < 8) ∧
    (opField r.mask = .allOnes 4 ∧ rsvField r.mask = .allOnes 3 ∧
      slotField r.mask = (if (opField r.pattern).toNat = 4 ∨ (opField r.pattern).toNat = 5 ∨ (opField r.pattern).toNat = 6
        then .allOnes 1 else 0) ∧
      lenField r.mask = if (opField r.pattern).toNat = 7 then .allOnes 24 else 0) ∧
    rsvField r.pattern = 0 ∧ slotField r.pattern = 0 ∧ lenField r.pattern = 0 := by
  decide

theorem and_ite_allOnes_eq_zero {n : Nat} {p : Prop} [Decidable p] {x : BitVec n} :
    x &&& (if p then .allOnes n else 0) = 0 ↔ (p → x = 0) := by
  by_cases hp : p <;> simp [hp]

/-- A word matches a row exactly when it is legal and has the operation code of the row. -/
theorem matches_iff (hr : r ∈ opcodeMap) : r.Matches w ↔ IsLegal w ∧ opField w = opField r.pattern := by
  obtain ⟨⟨h0, h8⟩, ⟨hopM, hrsvM, hslotM, hlenM⟩, hrsvP, hslotP, hlenP⟩ := opcodeMap_fields r hr
  have hlen : lenField w = 0 ↔ (lenField w).toNat = 0 := BitVec.toNat_eq
  rw [matches_iff_fields, hopM, hrsvM, hslotM, hlenM, hrsvP, hslotP, hlenP, BitVec.and_allOnes, BitVec.and_allOnes,
    and_ite_allOnes_eq_zero, and_ite_allOnes_eq_zero, hlen, IsLegal]
  constructor
  · rintro ⟨hrsv, hop, hmode, hdrop⟩
    rw [hop]
    exact ⟨⟨h0, h8, hrsv, hmode, hdrop⟩, rfl⟩
  · rintro ⟨⟨-, -, hrsv, hmode, hdrop⟩, hop⟩
    rw [hop] at hmode hdrop
    exact ⟨hrsv, hop, hmode, hdrop⟩

/-- Every assigned operation code has its row. -/
theorem exists_row_of_isLegal (h : IsLegal w) : ∃ r ∈ opcodeMap, opField w = opField r.pattern := by
  obtain ⟨h0, h8, -⟩ := h
  generalize opField w = op at h0 h8 ⊢
  revert op
  decide

theorem row_eq_of_opField_eq :
    ∀ r ∈ opcodeMap, ∀ r' ∈ opcodeMap, opField r.pattern = opField r'.pattern → r = r' := by
  decide

theorem mnemonic_eq_iff (hr : r ∈ opcodeMap) : i.mnemonic = r.mnemonic ↔ i.opcode = opField r.pattern := by
  revert r
  cases i <;> simp only [Instr.mnemonic, Instr.opcode] <;> decide

end

section

variable {s t : State} {sp : Space} {off : Nat} {rest : List HostMove}

/-! ### PUT and GET as runs of the machine (R63) -/

theorem core_run_succ (h : step s = .next t) (n : Nat) : Sys2Proof.core.run (n + 1) s = Sys2Proof.core.run n t := by
  have hcore : Sys2Proof.core.step s = .next t := h
  simp only [Host.Core.run, hcore]

theorem step_writeByte_eq {b : Byte} (hsp : sp ≠ .obuf) (hoff : off < s.size sp)
    (hm : s.moves = .writeByte sp off b :: rest) : step s = .next ((s.writeByte sp off b).setMoves rest) := by
  rw [step_eq_makeMove hm, makeMove, hostWriteByte_of_lt (by simpa using hoff), if_neg hsp]
  cases sp <;> rfl

theorem step_readByte_eq (hoff : off < s.size sp) (hm : s.moves = .readByte sp off :: rest) :
    step s = .next ((s.addAnswer (.byte (s.readByte sp off))).setMoves rest) := by
  rw [step_eq_makeMove hm, makeMove, hostReadByte_of_lt (by simpa using hoff), readByte_setMoves]
  rfl

/-- A byte string is written as its first byte, then the others from the next offset on. -/
theorem memWrite_cons (sp : Space) (off : Nat) (b : Byte) (bs : List Byte) (s : State) :
    memWrite sp off (b :: bs) s = memWrite sp (off + 1) bs (s.writeByte sp off b) := by
  cases sp <;> rfl

theorem memWrite_setMoves (sp : Space) (off : Nat) (bs : List Byte) (s : State) (ms : List HostMove) :
    memWrite sp off bs (s.setMoves ms) = (memWrite sp off bs s).setMoves ms := by
  cases sp <;> rfl

/-- So is a byte string read. -/
theorem memRead_succ (s : State) (sp : Space) (off n : Nat) :
    memRead s sp off (n + 1) = s.readByte sp off :: memRead s sp (off + 1) n := by
  simp [memRead, List.range_succ_eq_map, Nat.add_assoc, Nat.add_comm 1]

/-- The moves of a PUT write its byte string and leave the list. -/
theorem run_put (hsp : sp ≠ .obuf) (bs : List Byte) : ∀ (s : State) (off : Nat), off + bs.length ≤ s.size sp →
    s.moves = Listing.put sp off bs ++ rest →
    (Sys2Proof.core.run bs.length s : Host.Outcome State Fault Refusal) = .next ((memWrite sp off bs s).setMoves rest) := by
  induction bs with
  | nil =>
    intro s off _ hm
    cases hm
    cases sp <;> rfl
  | cons b bs ih =>
    intro s off hfit hm
    rw [List.length_cons] at hfit ⊢
    have hstep : step s = .next ((s.writeByte sp off b).setMoves (Listing.put sp (off + 1) bs ++ rest)) :=
      step_writeByte_eq hsp (by omega) hm
    have hsize : (s.writeByte sp off b).size sp = s.size sp := size_congr (by simp) sp
    rw [core_run_succ hstep, ih _ (off + 1) (by rw [size_setMoves]; omega) rfl, memWrite_setMoves, memWrite_cons]
    rfl

/-- The moves of a GET add the bytes to the answers and leave the list. -/
theorem run_get (n : Nat) : ∀ (s : State) (off : Nat), off + n ≤ s.size sp → s.moves = Listing.get sp off n ++ rest →
    (Sys2Proof.core.run n s : Host.Outcome State Fault Refusal) =
      .next { s with moves := rest, answers := s.answers ++ (memRead s sp off n).map Answer.byte } := by
  induction n with
  | zero =>
    intro s off _ hm
    cases hm
    simp [memRead, Host.Core.run]
  | succ n ih =>
    intro s off hfit hm
    have hstep : step s =
        .next ((s.addAnswer (.byte (s.readByte sp off))).setMoves (Listing.get sp (off + 1) n ++ rest)) :=
      step_readByte_eq (by omega) hm
    have hsize : (s.addAnswer (.byte (s.readByte sp off))).size sp = s.size sp := size_congr rfl sp
    rw [core_run_succ hstep, ih _ (off + 1) (by rw [size_setMoves]; omega) rfl, memRead_succ]
    simp

end

/-! ### The obligations -/

/-- Settles O1: the fields of the encoded word are those the decoder asks for. -/
theorem decodeOfEncode : Obligations.DecodeOfEncode := by
  intro i hi
  obtain ⟨hop, hslot, hrsv, hlen⟩ := Laws.EncodedFields.of_wellFormed i hi
  exact decode_eq_ok_iff.mpr ⟨hrsv, hop, hslot, hlen⟩

/-- Settles O2: the word and the encoding have the same four fields, and a word has no other bits. -/
theorem encodeOfDecode : Obligations.EncodeOfDecode := by
  intro w i h
  obtain ⟨hrsv, hop, hslot, hlen⟩ := decode_eq_ok_iff.mp h
  have hwf : i.len < 2 ^ 24 := hlen ▸ (lenField w).isLt
  obtain ⟨hop', hslot', hrsv', hlen'⟩ := Laws.EncodedFields.of_wellFormed i hwf
  exact ⟨hwf, word_eq_iff_fields.mpr ⟨hrsv'.trans hrsv.symm, hop'.trans hop.symm, hslot'.trans hslot.symm,
    BitVec.eq_of_toNat_eq (hlen'.trans hlen.symm)⟩⟩

/-- Settles O3: a row is matched by the legal words with its operation code, which no two rows share. -/
theorem opcodeMapDecidesDecoding : Obligations.OpcodeMapDecidesDecoding := by
  refine ⟨fun w r hr => ?_, fun w r hr r' hr' h h' => ?_, by decide⟩
  · rw [matches_iff hr, ← exists_decode_ok_iff, ← exists_and_right]
    refine exists_congr fun i => and_congr_right fun h => ?_
    obtain ⟨-, hop, -, -⟩ := decode_eq_ok_iff.mp h
    rw [hop, mnemonic_eq_iff hr]
  · obtain ⟨-, hop⟩ := (matches_iff hr).mp h
    obtain ⟨-, hop'⟩ := (matches_iff hr').mp h'
    exact row_eq_of_opField_eq r hr r' hr' (hop.symm.trans hop')

/-- Settles O4: R59's conditions are the negation of `IsLegal`, and every legal word has the operation code of some row. -/
theorem illegalWordsRaiseIllegalCommand : Obligations.IllegalWordsRaiseIllegalCommand := by
  refine ⟨fun w => ?_, fun w => ?_, fun w s ⟨e, h⟩ => runWord_error h s, ⟨_, rfl⟩, ⟨_, rfl⟩⟩
  · have hslot : slotField w = 1 ↔ ¬ slotField w = 0 := by
      obtain h | h := BitVec.eq_zero_or_eq_one (slotField w) <;> simp [h]
    rw [exists_decode_error_iff, hslot]
    simp only [IsLegal, not_and_or, Classical.not_imp, not_not, not_lt, ne_eq]
  · rw [exists_decode_error_iff]
    constructor
    · intro hillegal r hr hm
      exact hillegal ((matches_iff hr).mp hm).1
    · intro hnone hlegal
      obtain ⟨r, hr, hop⟩ := exists_row_of_isLegal hlegal
      exact hnone r hr ((matches_iff hr).mpr ⟨hlegal, hop⟩)

/-- Settles O14: the run of a PUT is one write of its byte string. -/
theorem putStoresItsBytes : Obligations.PutStoresItsBytes := by
  intro s sp off bs rest hsp hfit hm
  refine ⟨_, run_put hsp bs s off hfit hm, ?_, fun sp' off' hout => ?_, ?_⟩
  · rw [memRead_setMoves, memRead_memWrite_all]
  · rw [readByte_setMoves, readByte_memWrite, if_neg hout]
  · simp [SameSlots, SameRest]

/-- Settles O15, by induction on the number of bytes. -/
theorem getAnswersTheBytes : Obligations.GetAnswersTheBytes := fun s _ off n _ => run_get n s off

end Sys2Proof.Machine
end

section
/-! PROOFS. The datapath of the block cipher (40_sbox_round.md): the S-box and `tau` (R67 to R69), the linear transform (R70), the
round (R71 to R73), the thirty-two rounds forth, back (R77) and as the sequence `X[0..35]` (R74 to R76). -/

namespace Sys2Proof.Machine

/-! ### The S-box and `tau` (R67 to R69) -/

theorem sbox_bijective : Function.Bijective sbox := by
  have hsurj : ∀ y, ∃ x, sbox x = y := by decide +kernel
  exact ⟨Finite.injective_iff_surjective.mpr hsurj, hsurj⟩

theorem tau_bytes (a : Word) : byte0 (tau a) = sbox (byte0 a) ∧ byte1 (tau a) = sbox (byte1 a) ∧
    byte2 (tau a) = sbox (byte2 a) ∧ byte3 (tau a) = sbox (byte3 a) := by
  simp [tau]

theorem tau_injective : Function.Injective tau := by
  intro a b h
  obtain ⟨ha0, ha1, ha2, ha3⟩ := tau_bytes a
  obtain ⟨hb0, hb1, hb2, hb3⟩ := tau_bytes b
  rw [h] at ha0 ha1 ha2 ha3
  have hsbox := sbox_bijective.injective
  rw [← ofBytes_byte a, ← ofBytes_byte b, hsbox (ha0.symm.trans hb0), hsbox (ha1.symm.trans hb1),
    hsbox (ha2.symm.trans hb2), hsbox (ha3.symm.trans hb3)]

/-! ### The linear transform (R9, R70) -/

/-- Bit `k` of a rotated word comes from `n` lower, or wraps round from the top. -/
theorem rotl_getLsbD (w : Word) {n k : Nat} (hn0 : 0 < n) (hn : n < 32) (hk : k < 32) :
    (rotl w n).getLsbD k = w.getLsbD ((k + (32 - n)) % 32) := by
  have hback : ((k + (32 - n)) % 32 + n) % 32 = k := by omega
  rw [← getLsbD_rotl w hn0 hn (Nat.mod_lt _ (by decide)), hback]

theorem rotl_xor (a b : Word) {n : Nat} (hn0 : 0 < n) (hn : n < 32) : rotl (a ^^^ b) n = rotl a n ^^^ rotl b n := by
  refine BitVec.eq_of_getLsbD_eq fun k hk => ?_
  simp only [BitVec.getLsbD_xor, rotl_getLsbD _ hn0 hn hk]

theorem rotl_comm (w : Word) {m n : Nat} (hm0 : 0 < m) (hm : m < 32) (hn0 : 0 < n) (hn : n < 32) :
    rotl (rotl w m) n = rotl (rotl w n) m := by
  refine BitVec.eq_of_getLsbD_eq fun k hk => ?_
  have hlt : ∀ j, j % 32 < 32 := fun j => Nat.mod_lt j (by decide)
  have hadd : ((k + (32 - n)) % 32 + (32 - m)) % 32 = ((k + (32 - m)) % 32 + (32 - n)) % 32 := by omega
  rw [rotl_getLsbD _ hn0 hn hk, rotl_getLsbD _ hm0 hm (hlt _), hadd, rotl_getLsbD _ hm0 hm hk,
    rotl_getLsbD _ hn0 hn (hlt _)]

theorem lRound_xor (a b : Word) : lRound (a ^^^ b) = lRound a ^^^ lRound b := by
  simp only [lRound, rotl_xor a b (n := 2) (by decide) (by decide), rotl_xor a b (n := 10) (by decide) (by decide),
    rotl_xor a b (n := 18) (by decide) (by decide), rotl_xor a b (n := 24) (by decide) (by decide)]
  ac_rfl

theorem lRound_rotl (b : Word) {n : Nat} (hn0 : 0 < n) (hn : n < 32) : lRound (rotl b n) = rotl (lRound b) n := by
  simp only [lRound, rotl_xor _ _ hn0 hn, rotl_comm b (m := 2) (by decide) (by decide) hn0 hn,
    rotl_comm b (m := 10) (by decide) (by decide) hn0 hn, rotl_comm b (m := 18) (by decide) (by decide) hn0 hn,
    rotl_comm b (m := 24) (by decide) (by decide) hn0 hn]

/-! ### A round and its inverse (R72, R73) -/

@[simp] theorem rev_rev (x : Quad) : rev (rev x) = x := rfl

/-- A round on the words it left, reversed, takes the round back: the three words it kept give `T` the same argument in either
order. -/
theorem roundF_rev_roundF (rk : Word) (x : Quad) : roundF rk (rev (roundF rk x)) = rev x := by
  have harg : x.x3 ^^^ x.x2 ^^^ x.x1 ^^^ rk = x.x1 ^^^ x.x2 ^^^ x.x3 ^^^ rk := by ac_rfl
  simp only [rev, roundF, harg]
  rw [BitVec.xor_assoc, BitVec.xor_self, BitVec.xor_zero]

/-! ### Decryption inverts encryption (R77) -/

/-- The rounds back: the same subkeys in the other order, on the reversed words. -/
theorem rounds_reverse (k : List Word) : ∀ x, rounds k.reverse (rev (rounds k x)) = rev x := by
  induction k with
  | nil => exact fun x => rfl
  | cons rk k ih =>
    intro x
    calc rounds (rk :: k).reverse (rev (rounds (rk :: k) x))
      _ = roundF rk (rounds k.reverse (rev (rounds k (roundF rk x)))) := by simp [rounds]
      _ = roundF rk (rev (roundF rk x)) := by rw [ih]
      _ = rev x := roundF_rev_roundF rk x

theorem crypt_reverse_crypt (k : List Word) {b : List Byte} (h : b.length = 16) : crypt k.reverse (crypt k b) = b := by
  simp only [crypt, words_bytes, rounds_reverse, rev_rev, bytes_words h]

theorem decBlock_encBlock (rk : Vector Word 32) {b : List Byte} (h : b.length = 16) : decBlock rk (encBlock rk b) = b :=
  crypt_reverse_crypt rk.toList h

theorem encBlock_decBlock (rk : Vector Word 32) {b : List Byte} (h : b.length = 16) : encBlock rk (decBlock rk b) = b := by
  simpa [encBlock, decBlock] using crypt_reverse_crypt rk.toList.reverse h

/-! ### The sequence `X[0..35]` (R74) -/

/-- The window `(X[n], X[n+1], X[n+2], X[n+3])` of the sequence that starts with `q`. A round without a subkey of its own, past
the end of `k`, has the subkey 0: rounds 32 to 34 only spell out the words of the last window. -/
def window (k : List Word) (q : Quad) : Nat → Quad
  | 0 => q
  | n + 1 => roundF (k.getD n 0) (window k q n)

theorem rounds_take_eq_window (k : List Word) (q : Quad) {n : Nat} (h : n ≤ k.length) :
    rounds (k.take n) q = window k q n := by
  induction n with
  | zero => rfl
  | succ n ih =>
    have hn : n < k.length := h
    have hround : rounds (k.take (n + 1)) q = roundF k[n] (rounds (k.take n) q) := by
      rw [List.take_add_one, List.getElem?_eq_getElem hn, rounds, List.foldl_append]
      rfl
    rw [hround, ih hn.le, window, List.getD_eq_getElem _ _ hn]

/-- Four windows on, the word computed from one window stands first. -/
theorem window_recurrence (k : List Word) (q : Quad) (n : Nat) :
    (window k q (n + 4)).x0 = (window k q n).x0 ^^^ lRound (tau ((window k q (n + 1)).x0 ^^^ (window k q (n + 2)).x0 ^^^
      (window k q (n + 3)).x0 ^^^ k.getD n 0)) := rfl

theorem isCrypt_crypt {k : Fin 32 → Word} {l : List Word} (hlen : l.length = 32) (hk : ∀ i : Fin 32, l.getD i 0 = k i)
    (b : List Byte) : IsCrypt k b (crypt l b) := by
  refine ⟨fun n => (window l (words b) n).x0, rfl, rfl, rfl, rfl, fun i => ?_, ?_⟩
  · rw [← hk i]
    exact window_recurrence l (words b) i
  · have hlast : rounds l (words b) = window l (words b) 32 := by
      rw [← rounds_take_eq_window l _ hlen.ge, List.take_of_length_le hlen.le]
    rw [crypt, hlast]
    rfl

theorem isEnc_encBlock (rk : Vector Word 32) (b : List Byte) : IsEnc rk b (encBlock rk b) :=
  isCrypt_crypt (by simp) (fun i => by simp) b

theorem isDec_decBlock (rk : Vector Word 32) (b : List Byte) : IsDec rk b (decBlock rk b) :=
  isCrypt_crypt (by simp) (fun i => by simp) b

theorem encBlock_example : encBlock (expand exampleBytes) exampleBytes = exampleCiphertext := by decide +kernel

/-- The source's vector backwards, since decryption inverts it. -/
theorem decBlock_example : decBlock (expand exampleBytes) exampleCiphertext = exampleBytes := by
  rw [← encBlock_example, decBlock_encBlock _ rfl]

/-! ### The obligations -/

/-- Settles O38: `Dec` is `Enc` with the subkeys in the other order, which runs the rounds back. -/
theorem decryptInvertsEncrypt : Obligations.DecryptInvertsEncrypt :=
  fun rk _ h => ⟨decBlock_encBlock rk h, encBlock_decBlock rk h⟩

/-- Settles O59, by the first words of the windows the rounds go through. -/
theorem cryptFollowsRecurrence : Obligations.CryptFollowsRecurrence :=
  ⟨fun rk b _ => ⟨isEnc_encBlock rk b, isDec_decBlock rk b⟩, encBlock_example, decBlock_example⟩

/-- Settles O34: the S-box is a bijection and acts on each lane alone. -/
theorem tauWorksByLanes : Obligations.TauWorksByLanes :=
  ⟨tau_bytes, ⟨tau_injective, Finite.injective_iff_surjective.mp tau_injective⟩, by decide⟩

/-- Settles O35: each rotation is linear and commutes with every other. -/
theorem lIsLinearAndCommutesWithRotation : Obligations.LIsLinearAndCommutesWithRotation :=
  ⟨fun _ => rfl, lRound_xor, fun b _ => lRound_rotl b, by decide⟩

/-- Settles O37: the round, the reversal and the round again is the reversal. -/
theorem roundIsInvertible : Obligations.RoundIsInvertible := by
  intro rk
  have hleft : ∀ x, rev (roundF rk (rev (roundF rk x))) = x := fun x => by rw [roundF_rev_roundF, rev_rev]
  have hright : ∀ x, roundF rk (rev (roundF rk (rev x))) = x := fun x => by rw [roundF_rev_roundF, rev_rev]
  exact ⟨Function.bijective_iff_has_inverse.mpr ⟨fun x => rev (roundF rk (rev x)), hleft, hright⟩,
    fun x => ⟨hleft x, hright x⟩⟩

/-- Settles O56: the table and its fixed point by evaluation at the 256 bytes. -/
theorem sboxIsTheTable : Obligations.SboxIsTheTable := by
  refine ⟨?_, sbox_bijective, ?_⟩ <;> decide +kernel

/-- Settles O58: both formulas are the definitions; the worked examples are evaluated. -/
theorem roundMixesAndShifts : Obligations.RoundMixesAndShifts := by
  refine ⟨fun _ => rfl, ?_, ?_, ?_, ?_, fun _ _ _ _ _ => rfl, ?_⟩ <;> decide

end Sys2Proof.Machine
end

section
/-! PROOFS. The commands CENC and CDEC on the machine (40_sbox_round.md R77, R78, R80, R82): what they leave, and their runs with
the host's reads and writes between them (70_reset_and_hazards.md R152). -/

namespace Sys2Proof.Machine

variable {s t : State} {i : Instr} {rest : List HostMove}

/-! ### What a completed command leaves -/

theorem succeeds_cdec (sl : Slot) (n : Nat) : Succeeds s (.cdec sl n) ↔ s.rkv sl = true ∧ n = 16 := succeeds_cenc sl n

/-- The result of a completed command is read back from `OBUF`. -/
theorem memRead_completed_obuf (h : Succeeds s i) : memRead (completed s i) .obuf 0 (resultLength i) = resultBytes s i := by
  rw [completed, memRead_setStatus, ← resultBytes_length h, memRead_memWrite_all]

/-- All that a completed command leaves but its result, where it works on no slot. -/
theorem completed_frame (h : Succeeds s i) (hslots : updateSlots s i = s) :
    SucceededWith (completed s i) (resultLength i) ∧ SameSlots s (completed s i) ∧
      SameBytesBut (resultLength i) s (completed s i) ∧ SameRest s (completed s i) :=
  ⟨⟨rfl, rfl⟩, fun sl => by simp [hslots], completed_sameBytesBut h, completed_sameRest s i⟩

/-! ### Runs of the machine -/

/-- A run in two parts. -/
theorem core_run_add {m : Nat} (n : Nat) : ∀ {s : State},
    (Sys2Proof.core.run m s : Host.Outcome State Fault Refusal) = .next t →
    Sys2Proof.core.run (m + n) s = Sys2Proof.core.run n t := by
  induction m with
  | zero =>
    intro s h
    cases h
    rw [Nat.zero_add]
  | succ m ih =>
    intro s h
    rw [Nat.succ_add]
    simp only [Host.Core.run] at h ⊢
    split at h
    · exact ih h
    · cases h
    · cases h

/-! A command does not look at the moves to come, and leaves them. -/

theorem resultBytes_setMoves (s : State) (i : Instr) (ms : List HostMove) :
    resultBytes (s.setMoves ms) i = resultBytes s i := by
  cases i with
  | cenc | cdec => simp only [resultBytes, firstOperand, rk_setMoves, memRead_setMoves]
  | menc | mdec => simp only [resultBytes, tweakOperand, modeInput, setMoves_rkD, setMoves_rkT, memRead_setMoves]
  | cnew | mnew | cdrop => rfl

theorem setSlot_setMoves (s : State) (sl : Slot) (k : Vector Word 32) (v : Bool) (ms : List HostMove) :
    (s.setMoves ms).setSlot sl k v = (s.setSlot sl k v).setMoves ms := by
  cases sl <;> rfl

theorem updateSlots_setMoves (s : State) (i : Instr) (ms : List HostMove) :
    updateSlots (s.setMoves ms) i = (updateSlots s i).setMoves ms := by
  cases i with
  | cnew | mnew | cdrop => simp only [updateSlots, firstOperand, secondOperand, memRead_setMoves, setSlot_setMoves]
  | cenc | cdec | menc | mdec => rfl

theorem completed_setMoves (s : State) (i : Instr) (ms : List HostMove) :
    completed (s.setMoves ms) i = (completed s i).setMoves ms := by
  simp only [completed, resultBytes_setMoves, updateSlots_setMoves, memWrite_setMoves]
  rfl

/-- A command line of a listing runs its command (R53). -/
theorem step_command (hi : i.WellFormed) (hs : Succeeds s i) (hm : s.moves = Listing.command i ++ rest) :
    step s = .next ((completed s i).setMoves rest) := by
  have hrun : step s = exec i (s.setMoves rest) := (step_eq_makeMove hm).trans (runWord_ok (decodeOfEncode i hi) _)
  have hs' : Succeeds (s.setMoves rest) i := hs
  rw [hrun, exec_of_succeeds hs', completed_setMoves]

/-- A command that works on no slot and the GET of its result (R152): the host has the result, and the slots are as before. -/
theorem run_command_get (hi : i.WellFormed) (h : Succeeds s i) (hslots : updateSlots s i = s)
    (hfit : resultLength i ≤ s.maxLen)
    (hm : s.moves = Listing.command i ++ (Listing.get .obuf 0 (resultLength i) ++ rest)) :
    ∃ t : State, Sys2Proof.core.run (resultLength i + 1) s = .next t ∧ t.moves = rest ∧
      t.answers = s.answers ++ (resultBytes s i).map Answer.byte ∧ SameSlots s t ∧ t.maxLen = s.maxLen := by
  obtain ⟨-, hslot, -, hmax, -, -, hans⟩ := completed_frame h hslots
  have hget := run_get (resultLength i) ((completed s i).setMoves (Listing.get .obuf 0 (resultLength i) ++ rest)) 0
    (by simpa [State.size, hmax] using hfit) rfl
  rw [memRead_setMoves, memRead_completed_obuf h] at hget
  exact ⟨_, (core_run_succ (step_command hi h hm) _).trans hget, rfl, by simp [hans], hslot, hmax⟩

/-! ### The obligations -/

/-- Settles O39, by what a completed command leaves; its result is the sequence of O59 and, on the source's operands, the
source's ciphertext. -/
theorem cencCompletes : Obligations.CencCompletes := by
  intro s sl hv
  have hs : Succeeds s (.cenc sl 16) := (succeeds_cenc sl 16).mpr ⟨hv, rfl⟩
  have hout : memRead (completed s (.cenc sl 16)) .obuf 0 16 = encBlock (s.rk sl) (memRead s .ibuf 0 16) :=
    memRead_completed_obuf hs
  refine ⟨_, exec_of_succeeds hs, hout, ?_, fun hk hb => ?_, completed_frame hs rfl⟩
  · rw [hout]
    exact isEnc_encBlock _ _
  · rw [hout, hk, hb, encBlock_example]

/-- Settles O40 as O39, with the source's vector backwards. -/
theorem cdecCompletes : Obligations.CdecCompletes := by
  intro s sl hv
  have hs : Succeeds s (.cdec sl 16) := (succeeds_cdec sl 16).mpr ⟨hv, rfl⟩
  have hout : memRead (completed s (.cdec sl 16)) .obuf 0 16 = decBlock (s.rk sl) (memRead s .ibuf 0 16) :=
    memRead_completed_obuf hs
  refine ⟨_, exec_of_succeeds hs, hout, ?_, fun hk hb => ?_, completed_frame hs rfl⟩
  · rw [hout]
    exact isDec_decBlock _ _
  · rw [hout, hk, hb, decBlock_example]

/-- Settles O41: the run is CENC with its GET, the PUT of the ciphertext, CDEC with its GET; the slot keeps its schedule all the
while, so the second result is `Dec` of `Enc` of the block. -/
theorem encryptThenDecryptRun : Obligations.EncryptThenDecryptRun := by
  intro s sl rest hinv hv hm
  have hfit : 32 ≤ s.maxLen := hinv.maxLen_ge
  generalize hP : memRead s .ibuf 0 16 = P at hm ⊢
  have hPlen : P.length = 16 := by rw [← hP, memRead_length]
  generalize hC : encBlock (s.rk sl) P = C at hm ⊢
  have hClen : C.length = 16 := by rw [← hC, encBlock_length]
  simp only [List.append_assoc] at hm
  obtain ⟨s₁, hrun₁, hm₁, hans₁, hslot₁, hmax₁⟩ := run_command_get (i := .cenc sl 16) (show 16 < 16777216 by decide)
    ((succeeds_cenc sl 16).mpr ⟨hv, rfl⟩) rfl (by simp only [resultLength]; omega) hm
  obtain ⟨s₂, hrun₂, hmem₂, -, hslot₂, -, -, hmax₂, -, hm₂, hans₂⟩ := putStoresItsBytes s₁ .ibuf 0 C _ (by decide)
    (by simp only [State.size]; omega) hm₁
  have hrk₂ : s₂.rk sl = s.rk sl := (hslot₂ sl).1.trans (hslot₁ sl).1
  have hv₂ : s₂.rkv sl = true := ((hslot₂ sl).2.trans (hslot₁ sl).2).trans hv
  have hmax : s₂.maxLen = s.maxLen := hmax₂.trans hmax₁
  obtain ⟨s₃, hrun₃, hm₃, hans₃, -, -⟩ := run_command_get (i := .cdec sl 16) (show 16 < 16777216 by decide)
    ((succeeds_cdec sl 16).mpr ⟨hv₂, rfl⟩) rfl (by simp only [resultLength]; omega) hm₂
  have hresult₁ : resultBytes s (.cenc sl 16) = C := by rw [resultBytes, firstOperand, hP, hC]
  have hresult₃ : resultBytes s₂ (.cdec sl 16) = P := by
    rw [hClen] at hmem₂
    rw [resultBytes, firstOperand, hmem₂, hrk₂, ← hC, decBlock_encBlock _ hPlen]
  rw [hClen] at hrun₂
  refine ⟨s₃, ?_, hm₃, ?_⟩
  · calc Sys2Proof.core.run 50 s
      _ = Sys2Proof.core.run 33 s₁ := core_run_add 33 hrun₁
      _ = Sys2Proof.core.run 17 s₂ := core_run_add 17 hrun₂
      _ = .next s₃ := hrun₃
  · rw [hans₃, hans₂, hresult₃, setMoves_answers, hans₁, hresult₁]

/-- Settles O30: the second CNEW finds the key where the first one did, and CENC reads a slot only through its schedule. -/
theorem sameKeySameResult : Obligations.SameKeySameResult := by
  intro s
  have hcnew : ∀ (s : State) (sl : Slot), Succeeds s (.cnew sl 16) := fun s sl => (succeeds_cnew sl 16).mpr rfl
  generalize ht : completed s (.cnew .D 16) = t
  generalize hu : completed t (.cnew .T 16) = u
  have hkey : firstOperand t = firstOperand s := ht ▸ memRead_completed s _ (by decide) 0 16
  have hrk : u.rk .D = u.rk .T := by
    calc u.rk .D
      _ = t.rk .D := by simp [← hu, updateSlots]
      _ = expand (firstOperand s) := by simp [← ht, updateSlots]
      _ = u.rk .T := by simp [← hu, updateSlots, hkey]
  have hcenc : ∀ sl, Succeeds u (.cenc sl 16) := by
    intro sl
    refine (succeeds_cenc sl 16).mpr ⟨?_, rfl⟩
    cases sl <;> simp [← hu, ← ht, updateSlots]
  have hresult : resultBytes u (.cenc .D 16) = resultBytes u (.cenc .T 16) := by
    simp only [resultBytes, hrk]
  exact ⟨t, u, _, _, ht ▸ exec_of_succeeds (hcnew s .D), hu ▸ exec_of_succeeds (hcnew t .T), hrk,
    exec_of_succeeds (hcenc .D), exec_of_succeeds (hcenc .T),
    by simp only [completed, hresult, updateSlots, resultLength], rfl⟩

end Sys2Proof.Machine
end

section
/-! PROOFS. The key schedule (41_key_schedule.md): its constants (R85, R86), the transform `L'` (R87), the expander as the sequence
`MK[0..35]` and in its four-word form (R88 to R92), and the commands CNEW and CDROP (R95 to R97). -/

namespace Sys2Proof.Machine

variable {s : State} {i : Instr} {sl : Slot} {k : Vector Word 32} {v : Bool}

/-! ### The transform `L'` (R87) -/

theorem lKey_eq (b : Word) : lKey b = b ^^^ rotl b 13 ^^^ rotl b 23 := rfl

theorem lKey_xor (a b : Word) : lKey (a ^^^ b) = lKey a ^^^ lKey b := by
  rw [lKey_eq, rotl_xor a b (n := 13) (by decide) (by decide), rotl_xor a b (n := 23) (by decide) (by decide), lKey_eq,
    lKey_eq]
  ac_rfl

/-! ### The constants CK (R86) -/

theorem ckByte_toNat (i m : Nat) : (ckByte i m).toNat = (4 * i + m) * 7 % 256 := BitVec.toNat_ofNat _ _

theorem ckWord_bytes (i : Nat) : byte0 (ckWord i) = ckByte i 0 ∧ byte1 (ckWord i) = ckByte i 1 ∧
    byte2 (ckWord i) = ckByte i 2 ∧ byte3 (ckWord i) = ckByte i 3 := by
  simp [ckWord]

/-! ### The sequence `MK[0..35]` (R89, R90) -/

/-- The window `(MK[n], MK[n+1], MK[n+2], MK[n+3])` of the sequence that starts with `q`. -/
def keyWindow (q : Quad) : Nat → Quad
  | 0 => q
  | n + 1 =>
    let m := keyWindow q n
    ⟨m.x1, m.x2, m.x3, m.x0 ^^^ tKey (m.x1 ^^^ m.x2 ^^^ m.x3 ^^^ ckWord n)⟩

/-- `MK[n]` of the sequence that starts with `q`. -/
def keyWord (q : Quad) (n : Nat) : Word := (keyWindow q n).x0

theorem keyWindow_eq (q : Quad) (n : Nat) :
    keyWindow q n = ⟨keyWord q n, keyWord q (n + 1), keyWord q (n + 2), keyWord q (n + 3)⟩ := rfl

/-- R90: four windows on, the word computed from one window stands first. -/
theorem keyWord_recurrence (q : Quad) (n : Nat) : keyWord q (n + 4) =
    keyWord q n ^^^ tKey (keyWord q (n + 1) ^^^ keyWord q (n + 2) ^^^ keyWord q (n + 3) ^^^ ckWord n) := rfl

/-- The rounds from window `i` on give the words from `MK[i+4]` on. -/
theorem expandRounds_keyWindow (q : Quad) (n : Nat) : ∀ i,
    expandRounds ((List.range' i n).map ckWord) (keyWindow q i) = (List.range' i n).map fun j => keyWord q (j + 4) := by
  induction n with
  | zero => exact fun i => rfl
  | succ n ih =>
    intro i
    rw [List.range'_succ, List.map_cons, List.map_cons, ← ih (i + 1)]
    rfl

theorem expand_toList (key : List Byte) :
    (expand key).toList = (List.range 32).map fun j => keyWord (initialState key) (j + 4) := by
  rw [List.range_eq_range', ← expandRounds_keyWindow, ← List.range_eq_range']
  rfl

theorem expand_getElem (key : List Byte) (i : Fin 32) : (expand key)[i] = keyWord (initialState key) (i + 4) := by
  have hget : (expand key).toList[i.val]? = some (keyWord (initialState key) (i + 4)) := by
    simp [expand_toList]
  simpa using hget

theorem isSchedule_expand (key : List Byte) : IsSchedule key (expand key) :=
  ⟨keyWord (initialState key), rfl, rfl, rfl, rfl, fun i => ⟨keyWord_recurrence _ i, expand_getElem key i⟩⟩

/-! ### The four-word circular buffer (R91) -/

/-- At round `i` the buffer `w` holds `MK[i..i+3]`, with `MK[k]` at `w (k % 4)`. -/
def BufferHolds (q : Quad) (i : Nat) (w : Nat → Word) : Prop := ∀ k, i ≤ k → k < i + 4 → w (k % 4) = keyWord q k

/-- A round overwrites the oldest word, whose place the new one takes. -/
theorem BufferHolds.overwrite {q : Quad} {i : Nat} {w : Nat → Word} (h : BufferHolds q i w) :
    BufferHolds q (i + 1) fun p => if p = i % 4 then keyWord q (i + 4) else w p := by
  intro k hlo hhi
  obtain rfl | hlt := Nat.eq_or_lt_of_le (show k ≤ i + 4 by omega)
  · exact if_pos (Nat.add_mod_right i 4)
  · have hne : k % 4 ≠ i % 4 := by omega
    exact (if_neg hne).trans (h k (by omega) hlt)

/-- The rounds on the buffer give the words of the sequence. -/
theorem circularRounds_keyWord (q : Quad) (n : Nat) : ∀ (i : Nat) (w : Nat → Word), BufferHolds q i w →
    circularRounds n i w = (List.range' i n).map fun j => keyWord q (j + 4) := by
  induction n with
  | zero => exact fun _ _ _ => rfl
  | succ n ih =>
    intro i w h
    have hrk : w (i % 4) ^^^ tKey (w ((i + 1) % 4) ^^^ w ((i + 2) % 4) ^^^ w ((i + 3) % 4) ^^^ ckWord i) =
        keyWord q (i + 4) := by
      rw [keyWord_recurrence, h i (by omega) (by omega), h (i + 1) (by omega) (by omega), h (i + 2) (by omega) (by omega),
        h (i + 3) (by omega) (by omega)]
    rw [List.range'_succ, List.map_cons, ← ih (i + 1) _ h.overwrite]
    simp only [circularRounds, hrk]

/-! ### The commands on one slot (R95 to R97) -/

/-- What a completed command that writes the slot `sl` leaves in the slots (R18). -/
theorem completed_slots (h : updateSlots s i = s.setSlot sl k v) :
    (completed s i).rk sl = k ∧ (completed s i).rkv sl = v ∧ SameOtherSlot sl s (completed s i) := by
  refine ⟨by simp [h], by simp [h], fun sl' hne => ?_⟩
  simp [h, hne]

theorem setSlot_setSlot (s : State) (sl : Slot) (k k' : Vector Word 32) (v v' : Bool) :
    (s.setSlot sl k v).setSlot sl k' v' = s.setSlot sl k' v' := by
  cases sl <;> rfl

/-- CNEW overwrites all of its slot and reads none of it (R96). -/
theorem exec_cnew_setSlot (s : State) (sl : Slot) (k : Vector Word 32) (v : Bool) :
    exec (.cnew sl 16) (s.setSlot sl k v) = exec (.cnew sl 16) s := by
  have hnew : ∀ s : State, exec (.cnew sl 16) s = .next (completed s (.cnew sl 16)) := fun s =>
    exec_of_succeeds ((succeeds_cnew sl 16).mpr rfl)
  have hkey : firstOperand (s.setSlot sl k v) = firstOperand s := memRead_setSlot s sl k v .ibuf 0 16
  rw [hnew, hnew, completed, completed, updateSlots, updateSlots, hkey, setSlot_setSlot]
  rfl

/-- A command whose slot is empty fails (R133). -/
theorem exec_failsWith_noKey (h : ¬ SlotsPresent s i) : FailsWith (exec i s) s .noKey :=
  exec_of_failsCheck (.inl ⟨h, rfl⟩)

/-! ### The obligations -/

/-- Settles O24, by what a completed command leaves; the expanded key is the sequence of O31. -/
theorem cnewCompletes : Obligations.CnewCompletes := by
  intro s sl
  have hs : Succeeds s (.cnew sl 16) := (succeeds_cnew sl 16).mpr rfl
  obtain ⟨hrk, hrkv, hother⟩ := completed_slots (s := s) (i := .cnew sl 16) rfl
  refine ⟨_, exec_of_succeeds hs, ?_, hrkv, ⟨rfl, rfl⟩, hother, completed_sameBytesBut hs, completed_sameRest s _⟩
  rw [hrk]
  exact isSchedule_expand _

/-- Settles O31: the sequence is the first words of the windows the rounds go through; the examples are evaluated. -/
theorem expandFollowsRecurrence : Obligations.ExpandFollowsRecurrence := by
  refine ⟨fun _ => rfl, ?_, ?_, ?_, ?_, fun key _ => isSchedule_expand key, ?_⟩ <;> decide +kernel

/-- Settles O32: both forms give the words `MK[4..35]`, since at round `i` the buffer holds the window `MK[i..i+3]`. -/
theorem circularBufferAgrees : Obligations.CircularBufferAgrees := by
  intro key _
  rw [expand_toList, List.range_eq_range']
  refine (circularRounds_keyWord (initialState key) 32 0 _ fun k _ hk => ?_).symm
  match k, hk with
  | 0, _ | 1, _ | 2, _ | 3, _ => rfl

/-- Settles O36: each rotation is linear; the worked values are evaluated. -/
theorem lPrimeIsLinear : Obligations.LPrimeIsLinear := ⟨lKey_eq, lKey_xor, by decide⟩

/-- Settles O25: what a slot holds makes no difference to CNEW, and neither does the status a CDROP leaves. -/
theorem rekeyForgetsOldSchedule : Obligations.RekeyForgetsOldSchedule := by
  intro s sl k v
  have hnew : exec (.cnew sl 16) s = .next (completed s (.cnew sl 16)) :=
    exec_of_succeeds ((succeeds_cnew sl 16).mpr rfl)
  refine ⟨_, _, hnew, rfl, (exec_cnew_setSlot s sl k v).trans hnew, execCdrop_eq sl s, ?_⟩
  rw [exec_setStatus, exec_cnew_setSlot, hnew]

/-- Settles O27, by what a completed command leaves; the commands that need the slot find its valid bit clear. -/
theorem cdropCompletes : Obligations.CdropCompletes := by
  intro s sl
  have hs : Succeeds s (.cdrop sl) := succeeds_cdrop sl
  obtain ⟨hrk, hrkv, hother⟩ := completed_slots (s := s) (i := .cdrop sl) rfl
  refine ⟨_, exec_of_succeeds hs, fun i => ?_, hrkv, ⟨rfl, rfl⟩, hother, completed_sameBytesBut hs, completed_sameRest s _,
    fun n => ?_⟩
  · rw [hrk]
    simp
  · generalize completed s (.cdrop sl) = t at hrkv
    have hblock : ¬ t.rkv sl = true := by simp [hrkv]
    have hmode : ¬ (t.rkvD = true ∧ t.rkvT = true) := by
      rintro ⟨hD, hT⟩
      cases sl with
      | D => exact hblock hD
      | T => exact hblock hT
    exact ⟨exec_failsWith_noKey hblock, exec_failsWith_noKey hblock, exec_failsWith_noKey hmode,
      exec_failsWith_noKey hmode⟩

/-- Settles O57: the constants are the model's, each byte of `CK[i]` is its formula's, and the table is evaluated. -/
theorem keyScheduleConstants : Obligations.KeyScheduleConstants := by
  refine ⟨rfl, rfl, fun i _ => ?_, by decide⟩
  obtain ⟨h0, h1, h2, h3⟩ := ckWord_bytes i
  rw [h0, h1, h2, h3]
  exact ⟨ckByte_toNat i 0, ckByte_toNat i 1, ckByte_toNat i 2, ckByte_toNat i 3⟩

end Sys2Proof.Machine
end

section
/-! PROOFS. Doubling in GF(2^128) (42_tweakable_mode.md R100 to R103): byte by byte, as a number, and its inverse. -/

namespace Sys2Proof.Machine

variable {t : List Byte}

/-! ### Byte strings under XOR -/

theorem xorBytes_getD {a b : List Byte} (h : a.length = b.length) (k : Nat) :
    (xorBytes a b).getD k 0 = a.getD k 0 ^^^ b.getD k 0 := by
  rcases Nat.lt_or_ge k a.length with hk | hk
  · have hkb : k < b.length := h ▸ hk
    simp [xorBytes, hk, hkb]
  · have hkb : b.length ≤ k := h ▸ hk
    simp [xorBytes, hk, hkb]

theorem byteString_ext {a b : List Byte} (hlen : a.length = b.length)
    (h : ∀ k < b.length, a.getD k 0 = b.getD k 0) : a = b := by
  refine List.ext_getElem hlen fun k hk hk' => ?_
  simpa [hk, hk'] using h k hk'

/-- XOR with the same mask twice. -/
theorem xorBytes_xorBytes_cancel {b m : List Byte} (h : b.length = m.length) : xorBytes (xorBytes b m) m = b := by
  have hlen : (xorBytes b m).length = m.length := by simp [h]
  refine byteString_ext (by simp [h]) fun k _ => ?_
  rw [xorBytes_getD hlen, xorBytes_getD h, BitVec.xor_assoc, BitVec.xor_self, BitVec.xor_zero]

/-! ### The shift, byte by byte (R101) -/

/-- The carry into byte `k` of the shift of `t`, where `c` is the carry into byte 0. -/
def carryInto (c : Bool) (t : List Byte) : Nat → Bool
  | 0 => c
  | k + 1 => (t.getD k 0).msb

theorem carryInto_cons (c : Bool) (b : Byte) (t : List Byte) (k : Nat) :
    carryInto c (b :: t) (k + 1) = carryInto b.msb t k := by
  cases k <;> rfl

/-- The carry goes into bit 0, which the shift left empty, so OR and XOR agree. -/
theorem shiftByte_eq_xor (b : Byte) (c : Bool) :
    (b <<< 1) ||| (BitVec.ofBool c).setWidth 8 = (b <<< 1) ^^^ (if c then 1 else 0) := by
  cases c with
  | false => simp
  | true =>
    refine BitVec.eq_of_getLsbD_eq fun i hi => ?_
    cases i <;> simp

theorem shiftBytes_getD (t : List Byte) : ∀ (c : Bool) (k : Nat), k < t.length →
    (shiftBytes c t).1.getD k 0 = (t.getD k 0 <<< 1) ^^^ (if carryInto c t k then 1 else 0) := by
  induction t with
  | nil => exact fun _ _ h => absurd h (Nat.not_lt_zero _)
  | cons b t ih =>
    intro c k hk
    cases k with
    | zero => exact shiftByte_eq_xor b c
    | succ k =>
      rw [carryInto_cons]
      exact ih b.msb k (Nat.lt_of_succ_lt_succ hk)

theorem shiftBytes_carry (t : List Byte) : ∀ c, (shiftBytes c t).2 = carryInto c t t.length := by
  induction t with
  | nil => exact fun _ => rfl
  | cons b t ih =>
    intro c
    rw [List.length_cons, carryInto_cons]
    exact ih b.msb

theorem reduce_getD (u : List Byte) {k : Nat} (hk : k < u.length) :
    (reduce u).getD k 0 = u.getD k 0 ^^^ (if k = 0 then 0x87 else 0) := by
  cases u with
  | nil => exact absurd hk (Nat.not_lt_zero _)
  | cons b u => cases k <;> simp [reduce]

theorem dbl_eq (t : List Byte) :
    dbl t = if (shiftBytes false t).2 then reduce (shiftBytes false t).1 else (shiftBytes false t).1 := rfl

/-- Doubling, byte by byte. -/
theorem dbl_getD (ht : t.length = 16) {k : Nat} (hk : k < 16) :
    (dbl t).getD k 0 = (t.getD k 0 <<< 1) ^^^
      (if k = 0 then (if (t.getD 15 0).msb then 0x87 else 0) else if (t.getD (k - 1) 0).msb then 1 else 0) := by
  have hcarry : (shiftBytes false t).2 = (t.getD 15 0).msb := by rw [shiftBytes_carry, ht, carryInto]
  have hreduce := reduce_getD (shiftBytes false t).1 (k := k) (by simpa [ht] using hk)
  have hshift := shiftBytes_getD t false k (ht ▸ hk)
  rw [dbl_eq, hcarry]
  split
  · rw [hreduce, hshift]
    cases k <;> simp [carryInto]
  · rw [hshift]
    cases k <;> simp [carryInto]

/-! ### Strings as numbers (R100) -/

theorem leNumber_eq_ofDigits (t : List Byte) : leNumber t = Nat.ofDigits 256 (t.map BitVec.toNat) := by
  induction t with
  | nil => rfl
  | cons b t ih => rw [leNumber, ih, List.map_cons, Nat.ofDigits_cons]

theorem digits_lt (t : List Byte) : ∀ d ∈ t.map BitVec.toNat, d < 256 := by
  intro d hd
  obtain ⟨b, -, rfl⟩ := List.mem_map.mp hd
  exact b.isLt

theorem leNumber_lt (ht : t.length = 16) : leNumber t < 2 ^ 128 := by
  have h := Nat.ofDigits_lt_base_pow_length (by decide) (digits_lt t)
  rw [List.length_map, ht] at h
  rw [leNumber_eq_ofDigits]
  exact h

theorem leNumber_injective {a b : List Byte} (hlen : a.length = b.length) (h : leNumber a = leNumber b) : a = b := by
  rw [leNumber_eq_ofDigits, leNumber_eq_ofDigits] at h
  exact List.map_injective_iff.mpr (fun _ _ => BitVec.eq_of_toNat_eq)
    (Nat.ofDigits_inj_of_len_eq (by decide) (by simpa using hlen) (digits_lt a) (digits_lt b) h)

/-- One byte of the shift: the bit shifted out is the carry out. -/
theorem shiftByte_toNat (b : Byte) (c : Bool) :
    ((b <<< 1) ||| (BitVec.ofBool c).setWidth 8).toNat + 256 * b.msb.toNat = 2 * b.toNat + c.toNat := by
  have hconcat : (b <<< 1) ||| (BitVec.ofBool c).setWidth 8 = b.shiftConcat c := by
    refine BitVec.eq_of_getLsbD_eq fun i hi => ?_
    cases i <;> simp_all
  have hmsb : b.msb = true ↔ 2 * b.toNat ≥ 2 ^ 8 := BitVec.msb_eq_true_iff_two_mul_ge
  have hb : b.toNat < 2 ^ 8 := b.isLt
  have hc : c.toNat < 2 := c.toNat_lt
  rw [hconcat, BitVec.toNat_shiftConcat, Nat.shiftLeft_eq]
  cases hm : b.msb <;> simp [hm] at hmsb ⊢ <;> omega

/-- The shift doubles the number; the carry out is worth `256 ^ length`. -/
theorem leNumber_shiftBytes (t : List Byte) : ∀ c,
    leNumber (shiftBytes c t).1 + 256 ^ t.length * (shiftBytes c t).2.toNat = 2 * leNumber t + c.toNat := by
  induction t with
  | nil => intro c; simp [shiftBytes, leNumber]
  | cons b t ih =>
    intro c
    have hb := shiftByte_toNat b c
    have ht := ih b.msb
    simp only [shiftBytes, leNumber, List.length_cons, Nat.pow_succ']
    rw [Nat.mul_assoc]
    omega

/-- XOR with a byte changes the lowest byte only. -/
theorem byte_add_xor {b m : Nat} (hb : b < 2 ^ 8) (hm : m < 2 ^ 8) (n : Nat) :
    (b + 256 * n) ^^^ m = (b ^^^ m) + 256 * n := by
  have hmod : ((b + 256 * n) ^^^ m) % 2 ^ 8 = b ^^^ m := by
    rw [Nat.xor_mod_two_pow, Nat.mod_eq_of_lt hm, show (b + 256 * n) % 2 ^ 8 = b by omega]
  have hdiv : ((b + 256 * n) ^^^ m) / 2 ^ 8 = n := by
    rw [Nat.xor_div_two_pow, Nat.div_eq_of_lt hm, Nat.xor_zero, show (b + 256 * n) / 2 ^ 8 = n by omega]
  omega

theorem leNumber_reduce {u : List Byte} (hu : u ≠ []) : leNumber (reduce u) = leNumber u ^^^ 0x87 := by
  cases u with
  | nil => exact absurd rfl hu
  | cons b u =>
    rw [reduce, leNumber, leNumber, byte_add_xor b.isLt (by decide), BitVec.toNat_xor]
    rfl

/-- Doubling as a number, by whether the bit shifted out is set. -/
theorem leNumber_dbl_cases (ht : t.length = 16) :
    (leNumber t < 2 ^ 127 ∧ leNumber (dbl t) = 2 * leNumber t) ∨
    (2 ^ 127 ≤ leNumber t ∧ leNumber (dbl t) = (2 * leNumber t - 2 ^ 128) ^^^ 0x87) := by
  have hlen : (shiftBytes false t).1.length = 16 := by simp [ht]
  have hshift := leNumber_shiftBytes t false
  have hlt := leNumber_lt hlen
  rw [ht] at hshift
  rw [dbl_eq]
  cases hc : (shiftBytes false t).2 with
  | false =>
    rw [hc] at hshift
    simp only [Bool.toNat_false] at hshift
    refine .inl ⟨by omega, ?_⟩
    simp only [Bool.false_eq_true, if_false]
    omega
  | true =>
    rw [hc] at hshift
    simp only [Bool.toNat_true, Bool.toNat_false] at hshift
    have hne : (shiftBytes false t).1 ≠ [] := List.ne_nil_of_length_pos (by omega)
    refine .inr ⟨by omega, ?_⟩
    rw [if_pos rfl, leNumber_reduce hne, show leNumber (shiftBytes false t).1 = 2 * leNumber t - 2 ^ 128 by omega]

/-! ### The inverse (R103) -/

/-- The rule's inverse: an odd number was reduced, so the bit shifted out was set. -/
theorem leNumber_eq_of_dbl (ht : t.length = 16) : leNumber t =
    if (leNumber (dbl t)).testBit 0 then ((leNumber (dbl t) ^^^ 0x87) >>> 1) ||| 2 ^ 127 else leNumber (dbl t) >>> 1 := by
  have hlt := leNumber_lt ht
  obtain ⟨hsmall, heq⟩ | ⟨hlarge, heq⟩ := leNumber_dbl_cases ht
  · have heven : (leNumber (dbl t)).testBit 0 = false := by rw [Nat.testBit_zero, heq]; simp
    rw [heven, heq, if_neg Bool.false_ne_true, Nat.shiftRight_eq_div_pow]
    omega
  · have hodd : (leNumber (dbl t)).testBit 0 = true := by
      rw [heq, Nat.testBit_xor, Nat.testBit_zero, show (2 * leNumber t - 2 ^ 128) % 2 = 0 by omega]
      decide
    have hhalf : (2 * leNumber t - 2 ^ 128) >>> 1 = leNumber t - 2 ^ 127 := by
      rw [Nat.shiftRight_eq_div_pow]
      omega
    rw [if_pos hodd, heq, Nat.xor_assoc, Nat.xor_self, Nat.xor_zero, hhalf, Nat.or_comm]
    have hor := Nat.two_pow_add_eq_or_of_lt (show leNumber t - 2 ^ 127 < 2 ^ 127 by omega) 1
    rw [Nat.mul_one] at hor
    omega

theorem dbl_injective {a b : List Byte} (ha : a.length = 16) (hb : b.length = 16) (h : dbl a = dbl b) : a = b := by
  refine leNumber_injective (ha.trans hb.symm) ?_
  rw [leNumber_eq_of_dbl ha, leNumber_eq_of_dbl hb, h]

/-- Doubling on the type of 16-byte strings. -/
def dblVector (t : List.Vector Byte 16) : List.Vector Byte 16 := ⟨dbl t.1, (dbl_length t.1).trans t.2⟩

/-- There are finitely many 16-byte strings, so an injection of them into themselves reaches every one. -/
theorem dbl_surjective {u : List Byte} (hu : u.length = 16) : ∃ t : List Byte, t.length = 16 ∧ dbl t = u := by
  have hinj : Function.Injective dblVector := fun a b h =>
    Subtype.ext (dbl_injective a.2 b.2 (congrArg Subtype.val h))
  obtain ⟨t, ht⟩ := Finite.injective_iff_surjective.mp hinj ⟨u, hu⟩
  exact ⟨t.1, t.2, congrArg Subtype.val ht⟩

theorem dbl_zero : dbl (List.replicate 16 0) = List.replicate 16 0 := by decide

theorem maskAt_eq_zero (ht : t.length = 16) {j : Nat} (h : maskAt t j = List.replicate 16 0) :
    t = List.replicate 16 0 := by
  induction j with
  | zero => exact h
  | succ j ih => exact ih (dbl_injective (by simp [ht]) rfl (h.trans dbl_zero.symm))

/-! ### Linearity (R103) -/

theorem ite_bxor (x y : Bool) (v : Byte) :
    (if (x ^^ y) = true then v else 0) = (if x then v else 0) ^^^ (if y then v else 0) := by
  cases x <;> cases y <;> simp

/-- Every byte of the doubled string is an XOR of shifted bytes and of constants under single bits. -/
theorem dbl_xorBytes {a b : List Byte} (ha : a.length = 16) (hb : b.length = 16) :
    dbl (xorBytes a b) = xorBytes (dbl a) (dbl b) := by
  have hab : a.length = b.length := ha.trans hb.symm
  have hlen : (xorBytes a b).length = 16 := by simp [ha, hb]
  refine byteString_ext (by simp [ha, hb]) fun k hk => ?_
  have hk : k < 16 := by simpa [ha, hb] using hk
  have hdbl : (dbl a).length = (dbl b).length := by simp [hab]
  rw [dbl_getD hlen hk, xorBytes_getD hdbl, dbl_getD ha hk, dbl_getD hb hk]
  simp only [xorBytes_getD hab, BitVec.shiftLeft_xor_distrib, BitVec.msb_xor, ite_bxor]
  split <;> ac_rfl

/-! ### The obligations -/

/-- Settles O42: the carry of the shift is the top bit of the byte before, and the shift doubles the number. -/
theorem doublingShiftsAndReduces : Obligations.DoublingShiftsAndReduces := by
  refine ⟨fun t ht => ⟨by rw [dbl_length, ht], fun k hk => dbl_getD ht hk, ?_⟩, by decide⟩
  have hlt := leNumber_lt ht
  obtain ⟨hsmall, heq⟩ | ⟨hlarge, heq⟩ := leNumber_dbl_cases ht
  · rw [heq, if_neg hsmall.not_ge, Nat.xor_zero, Nat.mod_eq_of_lt (by omega)]
  · rw [heq, if_pos hlarge, show 2 * leNumber t % 2 ^ 128 = 2 * leNumber t - 2 ^ 128 by omega]

/-- Settles O43: linear byte by byte, and injective by the rule's inverse on numbers. -/
theorem doublingIsLinearBijection : Obligations.DoublingIsLinearBijection := by
  refine ⟨fun _ _ => dbl_xorBytes, dbl_zero, fun u hu => ?_, fun _ => leNumber_eq_of_dbl, fun _ _ ht => maskAt_eq_zero ht⟩
  obtain ⟨t, ht, heq⟩ := dbl_surjective hu
  exact ⟨t, ⟨ht, heq⟩, fun t' ⟨ht', heq'⟩ => dbl_injective ht' ht (heq'.trans heq.symm)⟩

end Sys2Proof.Machine
end

section
/-! PROOFS. The tweakable mode (42_tweakable_mode.md): mask-cipher-mask (R104), the input in blocks (R108), Process with and
without stealing and its round trip (R110 to R114), then the commands MNEW, MENC and MDEC on the machine (R115 to R120). -/

namespace Sys2Proof.Machine

/-! ### Mask-cipher-mask (R104) -/

/-- The other direction. -/
def opposite : Dir → Dir
  | .enc => .dec
  | .dec => .enc

section

variable {dir : Dir} {rk rkD rkT : Vector Word 32} {m b t0 twk input : List Byte} {k n r : Nat}

theorem cipherCall_opposite (dir : Dir) (rk : Vector Word 32) (hb : b.length = 16) :
    cipherCall (opposite dir) rk (cipherCall dir rk b) = b := by
  cases dir with
  | enc => exact decBlock_encBlock rk hb
  | dec => exact encBlock_decBlock rk hb

/-- The same mask comes off on both sides of the cipher call. -/
theorem xex_opposite (dir : Dir) (rk : Vector Word 32) (hm : m.length = 16) (hb : b.length = 16) :
    xex (opposite dir) rk m (xex dir rk m b) = b := by
  have hcall : (cipherCall dir rk (xorBytes b m)).length = m.length := by simp [hm]
  have hbm : b.length = m.length := hb.trans hm.symm
  rw [xex, xex, xorBytes_xorBytes_cancel hcall, cipherCall_opposite dir rk (by simp [hb, hm]),
    xorBytes_xorBytes_cancel hbm]

/-! ### Input blocks (R108) -/

/-- The blocks and what follows them are the whole input. -/
theorem flatten_fullBlocks (n : Nat) : ∀ l : List Byte, (fullBlocks n l).flatten = l.take (16 * n) := by
  induction n with
  | zero => exact fun l => by simp [fullBlocks]
  | succ n ih =>
    intro l
    rw [fullBlocks, List.flatten_cons, ih, Nat.mul_succ, Nat.add_comm, List.take_add]

/-- Joined blocks are taken apart again, whatever follows them. -/
theorem fullBlocks_flatten_append {os : List (List Byte)} (hos : ∀ o ∈ os, o.length = 16) (rest : List Byte) :
    fullBlocks os.length (os.flatten ++ rest) = os := by
  induction os with
  | nil => rfl
  | cons o os ih =>
    have ho : o.length = 16 := hos o List.mem_cons_self
    rw [List.length_cons, fullBlocks, List.flatten_cons, List.append_assoc, List.take_left' ho, List.drop_left' ho,
      ih fun x hx => hos x (List.mem_cons_of_mem _ hx)]

/-- Block `n` of the input. -/
def inputBlock (input : List Byte) (n : Nat) : List Byte := (input.drop (16 * n)).take 16

theorem inputBlock_length (h : 16 * (n + 1) ≤ input.length) : (inputBlock input n).length = 16 := by
  simp [inputBlock]
  omega

theorem fullBlocks_succ (n : Nat) : ∀ l, fullBlocks (n + 1) l = fullBlocks n l ++ [inputBlock l n] := by
  induction n with
  | zero => exact fun l => by simp [fullBlocks, inputBlock]
  | succ n ih =>
    intro l
    have hblock : inputBlock (l.drop 16) n = inputBlock l (n + 1) := by
      rw [inputBlock, inputBlock, List.drop_drop, Nat.mul_succ, Nat.add_comm]
    rw [fullBlocks, ih, hblock]
    rfl

theorem masks_succ (n : Nat) : ∀ t, masks (n + 1) t = masks n t ++ [maskAt t n] := by
  induction n with
  | zero => exact fun t => rfl
  | succ n ih =>
    intro t
    rw [masks, ih, maskAt_dbl]
    rfl

/-! ### The blocks of the mode (R110) -/

/-- The first `n` input blocks, block `j` under the mask `T_j`. -/
def modeBlocks (dir : Dir) (rk : Vector Word 32) (t0 input : List Byte) (n : Nat) : List (List Byte) :=
  List.zipWith (xex dir rk) (masks n t0) (fullBlocks n input)

@[simp] theorem modeBlocks_length (dir : Dir) (rk : Vector Word 32) (t0 input : List Byte) (n : Nat) :
    (modeBlocks dir rk t0 input n).length = n := by
  simp [modeBlocks]

theorem modeBlocks_succ (dir : Dir) (rk : Vector Word 32) (t0 input : List Byte) (n : Nat) :
    modeBlocks dir rk t0 input (n + 1) =
      modeBlocks dir rk t0 input n ++ [xex dir rk (maskAt t0 n) (inputBlock input n)] := by
  rw [modeBlocks, masks_succ, fullBlocks_succ, List.zipWith_append (by simp)]
  rfl

/-- The results of the mode, joined, are taken apart again. -/
theorem fullBlocks_modeBlocks (ht : t0.length = 16) (rest : List Byte) :
    fullBlocks n ((modeBlocks dir rk t0 input n).flatten ++ rest) = modeBlocks dir rk t0 input n := by
  have h := fullBlocks_flatten_append (modeBlocks_length16 dir rk ht input n) rest
  rwa [← modeBlocks, modeBlocks_length] at h

theorem modeBlocks_opposite (ht : t0.length = 16) (h : 16 * n ≤ input.length) :
    List.zipWith (xex (opposite dir) rk) (masks n t0) (modeBlocks dir rk t0 input n) = fullBlocks n input := by
  induction n with
  | zero => rfl
  | succ n ih =>
    rw [modeBlocks_succ, masks_succ, List.zipWith_append (by simp), ih (by omega), fullBlocks_succ, List.zipWith_cons_cons,
      xex_opposite dir rk (by simp [ht]) (inputBlock_length h)]
    rfl

/-! ### Process (R110 to R113) -/

/-- Process on full blocks only. -/
theorem process_whole (h : input.length = 16 * n) :
    process dir rkD rkT twk input = (modeBlocks dir rkD (encBlock rkT twk) input n).flatten := by
  have hn : input.length / 16 = n := by omega
  have hr : input.length % 16 = 0 := by omega
  simp only [process, hr, hn, if_true, modeBlocks]

/-- The last full result of a stealing input, before it is split (R111). -/
def stolenBlock (dir : Dir) (rk : Vector Word 32) (t0 input : List Byte) (k : Nat) : List Byte :=
  xex dir rk (maskAt t0 k) (inputBlock input k)

/-- The last full block of a stealing output: the tail of the input, filled up from the stolen block, under the same mask. -/
def filledBlock (dir : Dir) (rk : Vector Word 32) (t0 input : List Byte) (k r : Nat) : List Byte :=
  xex dir rk (maskAt t0 k) (input.drop (16 * (k + 1)) ++ (stolenBlock dir rk t0 input k).drop r)

/-- Process on an input with a tail of `r` bytes after its `k + 1` full blocks. -/
theorem process_steal (h : input.length = 16 * (k + 1) + r) (hr0 : 0 < r) (hr : r < 16) :
    process dir rkD rkT twk input = (modeBlocks dir rkD (encBlock rkT twk) input k).flatten ++
      (filledBlock dir rkD (encBlock rkT twk) input k r ++ (stolenBlock dir rkD (encBlock rkT twk) input k).take r) := by
  have hn : input.length / 16 = k + 1 := by omega
  have hmod : input.length % 16 = r := by omega
  have hlast : (masks (k + 1) (encBlock rkT twk)).getLastD [] = maskAt (encBlock rkT twk) k := by
    rw [masks_succ, List.getLastD_concat]
  have hblocks := modeBlocks_succ dir rkD (encBlock rkT twk) input k
  rw [modeBlocks] at hblocks
  simp only [process, hn, hmod, if_neg hr0.ne', hlast, hblocks, List.dropLast_concat, List.getLastD_concat, List.append_assoc]
  rfl

/-! ### Process undone (R114) -/

/-- What follows the blocks `os`: one more block, then the tail. -/
theorem inputBlock_flatten_append {os : List (List Byte)} (hos : ∀ o ∈ os, o.length = 16) (hb : b.length = 16)
    (tail : List Byte) :
    inputBlock (os.flatten ++ (b ++ tail)) os.length = b ∧ (os.flatten ++ (b ++ tail)).drop (16 * (os.length + 1)) = tail := by
  have hdrop : (os.flatten ++ (b ++ tail)).drop (16 * os.length) = b ++ tail := List.drop_left' (flatten_length16 hos)
  refine ⟨by rw [inputBlock, hdrop, List.take_left' hb], ?_⟩
  rw [Nat.mul_succ, ← List.drop_drop, hdrop, List.drop_left' hb]

/-- The blocks of an output without stealing are the results for the input's blocks. -/
theorem fullBlocks_process_whole (h : input.length = 16 * n) :
    fullBlocks n (process dir rkD rkT twk input) = modeBlocks dir rkD (encBlock rkT twk) input n := by
  rw [process_whole h, ← List.append_nil (List.flatten _), fullBlocks_modeBlocks (encBlock_length rkT twk)]

theorem stolenBlock_length (ht : t0.length = 16) : (stolenBlock dir rk t0 input k).length = 16 := xex_length (by simp [ht])

/-- The parts of a stealing output. -/
theorem process_steal_parts (h : input.length = 16 * (k + 1) + r) (hr0 : 0 < r) (hr : r < 16) :
    fullBlocks k (process dir rkD rkT twk input) = modeBlocks dir rkD (encBlock rkT twk) input k ∧
    inputBlock (process dir rkD rkT twk input) k = filledBlock dir rkD (encBlock rkT twk) input k r ∧
    (process dir rkD rkT twk input).drop (16 * (k + 1)) = (stolenBlock dir rkD (encBlock rkT twk) input k).take r := by
  have ht : (encBlock rkT twk).length = 16 := encBlock_length rkT twk
  have hfilled : (filledBlock dir rkD (encBlock rkT twk) input k r).length = 16 := xex_length (by simp)
  have hparts := inputBlock_flatten_append (modeBlocks_length16 dir rkD ht input k) hfilled
    ((stolenBlock dir rkD (encBlock rkT twk) input k).take r)
  rw [← modeBlocks, modeBlocks_length] at hparts
  rw [process_steal h hr0 hr]
  exact ⟨fullBlocks_modeBlocks ht _, hparts⟩

theorem process_opposite_whole (h : input.length = 16 * n) (hpos : 0 < n) :
    process (opposite dir) rkD rkT twk (process dir rkD rkT twk input) = input := by
  have hout : (process dir rkD rkT twk input).length = 16 * n := (process_length _ _ _ _ _ (by omega)).trans h
  rw [process_whole hout, modeBlocks, fullBlocks_process_whole h, modeBlocks_opposite (encBlock_length rkT twk) h.ge,
    flatten_fullBlocks, List.take_of_length_le h.le]

/-- The other direction takes the filled block off first: it finds the tail of the input and the end of the stolen block, whose
beginning is the tail of the output (R112). -/
theorem process_opposite_steal (h : input.length = 16 * (k + 1) + r) (hr0 : 0 < r) (hr : r < 16) :
    process (opposite dir) rkD rkT twk (process dir rkD rkT twk input) = input := by
  have hout : (process dir rkD rkT twk input).length = 16 * (k + 1) + r := (process_length _ _ _ _ _ (by omega)).trans h
  obtain ⟨hblocks, hfilled, htail⟩ := process_steal_parts (dir := dir) (rkD := rkD) (rkT := rkT) (twk := twk) h hr0 hr
  generalize process dir rkD rkT twk input = out at hout hblocks hfilled htail ⊢
  rw [process_steal hout hr0 hr]
  have ht : (encBlock rkT twk).length = 16 := encBlock_length rkT twk
  generalize encBlock rkT twk = t0 at ht hblocks hfilled htail ⊢
  have hm : (maskAt t0 k).length = 16 := by simp [ht]
  generalize hcc : stolenBlock dir rkD t0 input k = cc at htail
  have hcclen : cc.length = 16 := hcc ▸ stolenBlock_length ht
  have htaillen : (input.drop (16 * (k + 1))).length = r := by simp [h]
  have hstolen : stolenBlock (opposite dir) rkD t0 out k = input.drop (16 * (k + 1)) ++ cc.drop r := by
    rw [stolenBlock, hfilled, filledBlock, hcc, xex_opposite dir rkD hm (by simp [hcclen, htaillen]; omega)]
  have hlast : filledBlock (opposite dir) rkD t0 out k r = inputBlock input k := by
    rw [filledBlock, htail, hstolen, List.drop_left' htaillen, List.take_append_drop, ← hcc, stolenBlock,
      xex_opposite dir rkD hm (inputBlock_length (by omega))]
  rw [modeBlocks, hblocks, modeBlocks_opposite ht (by omega), flatten_fullBlocks, hlast, hstolen, List.take_left' htaillen]
  rw [inputBlock, Nat.mul_succ, ← List.drop_drop, List.take_append_drop, List.take_append_drop]

theorem process_opposite (dir : Dir) (rkD rkT : Vector Word 32) (twk : List Byte) (h : 16 ≤ input.length) :
    process (opposite dir) rkD rkT twk (process dir rkD rkT twk input) = input := by
  rcases Nat.eq_zero_or_pos (input.length % 16) with hr | hr
  · exact process_opposite_whole (n := input.length / 16) (by omega) (by omega)
  · exact process_opposite_steal (k := input.length / 16 - 1) (r := input.length % 16) (by omega) hr (by omega)

/-! ### The result in OBUF (R110, R111) -/

theorem inputBlock_of_fullBlocks {out : List Byte} (h : fullBlocks n out = modeBlocks dir rk t0 input n) {j : Nat}
    (hj : j < n) : inputBlock out j = xex dir rk (maskAt t0 j) (inputBlock input j) := by
  have hout := fullBlocks_getElem? n out j hj
  rw [h, modeBlocks, modeBlocks_getElem? dir rk t0 input n j hj] at hout
  exact (Option.some.inj hout).symm

end

section

variable {dir : Dir} {s t : State} {len j : Nat}

theorem memRead_drop (s : State) (sp : Space) (a n k : Nat) : (memRead s sp a n).drop k = memRead s sp (a + k) (n - k) := by
  refine List.ext_getElem (by simp) fun i hi hi' => ?_
  rw [List.getElem_drop, memRead_getElem, memRead_getElem, Nat.add_assoc]

theorem memRead_take (s : State) (sp : Space) (a : Nat) {n k : Nat} (h : k ≤ n) :
    (memRead s sp a n).take k = memRead s sp a k := by
  refine List.ext_getElem (by simp [h]) fun i hi hi' => ?_
  rw [List.getElem_take, memRead_getElem, memRead_getElem]

theorem inputBlock_memRead (s : State) (sp : Space) (h : 16 * (j + 1) ≤ len) :
    inputBlock (memRead s sp 0 len) j = memRead s sp (16 * j) 16 := by
  rw [inputBlock, memRead_drop, memRead_take s sp _ (by omega), Nat.zero_add]

theorem blockResult_eq (dir : Dir) (s : State) (h : 16 * (j + 1) ≤ len) :
    blockResult dir s j =
      xex dir s.rkD (maskAt (encBlock s.rkT (tweakOperand s)) j) (inputBlock (modeInput s len) j) := by
  rw [modeInput, inputBlock_memRead s .ibuf h]
  rfl

theorem holdsModeOutput_of_process (hlen : 16 ≤ len)
    (h : memRead t .obuf 0 len = process dir s.rkD s.rkT (tweakOperand s) (modeInput s len)) :
    HoldsModeOutput dir len s t := by
  have hinput : (modeInput s len).length = len := memRead_length s .ibuf 0 len
  have hread : ∀ j, 16 * (j + 1) ≤ len → memRead t .obuf (16 * j) 16 =
      inputBlock (process dir s.rkD s.rkT (tweakOperand s) (modeInput s len)) j := fun j hj => by
    rw [← h, inputBlock_memRead t .obuf hj]
  rcases Nat.eq_zero_or_pos (len % 16) with hr | hr
  · refine ⟨fun j hj _ => ?_, fun hne => absurd hr hne⟩
    have hj' : 16 * (j + 1) ≤ len := by omega
    rw [hread j hj', blockResult_eq dir s hj',
      inputBlock_of_fullBlocks (fullBlocks_process_whole (n := len / 16) (by omega)) hj]
  · obtain ⟨k, hk⟩ : ∃ k, len / 16 = k + 1 := ⟨len / 16 - 1, by omega⟩
    have hfit : 16 * (k + 1) ≤ len := by omega
    have htail : ∀ u sp, memRead u sp (16 * (k + 1)) (len % 16) = (memRead u sp 0 len).drop (16 * (k + 1)) :=
      fun u sp => by rw [memRead_drop, Nat.zero_add, show len - 16 * (k + 1) = len % 16 by omega]
    obtain ⟨hblocks, hfilled, hstolen⟩ := process_steal_parts (dir := dir) (rkD := s.rkD) (rkT := s.rkT)
      (twk := tweakOperand s) (input := modeInput s len) (k := k) (r := len % 16) (by omega) hr (by omega)
    simp only [HoldsModeOutput, hk, Nat.add_sub_cancel]
    refine ⟨fun j hj hor => ?_, fun _ => ⟨?_, ?_⟩⟩
    · have hj' : 16 * (j + 1) ≤ len := by omega
      rw [hread j hj', blockResult_eq dir s hj', inputBlock_of_fullBlocks hblocks (by omega)]
    · rw [hread k hfit, hfilled, blockResult_eq dir s hfit, htail]
      rfl
    · rw [htail, h, hstolen, blockResult_eq dir s hfit]
      rfl

end

/-! ### The commands (R115 to R120) -/

theorem succeeds_mdec {s : State} (n : Nat) :
    Succeeds s (.mdec n) ↔ (s.rkvD = true ∧ s.rkvT = true) ∧ 16 ≤ n ∧ n ≤ s.maxLen := succeeds_menc n

/-- A command line whose command works on no slot: the frame of the step (R29, R53). -/
theorem step_command_frame {s : State} {i : Instr} {rest : List HostMove} (hi : i.WellFormed) (hs : Succeeds s i)
    (hslots : updateSlots s i = s) (hm : s.moves = Listing.command i ++ rest) :
    ∃ t, step s = .next t ∧ SameSlots s t ∧ SameBytesBut (resultLength i) s t ∧ SameRest (s.setMoves rest) t := by
  obtain ⟨-, hslot, hbytes, hmax, hresets, -, hans⟩ := completed_frame hs hslots
  refine ⟨_, step_command hi hs hm, fun sl => ?_, fun sp off hout => ?_, hmax, hresets, rfl, hans⟩
  · rw [rk_setMoves, rkv_setMoves]
    exact hslot sl
  · rw [readByte_setMoves]
    exact hbytes sp off hout

/-! ### The obligations -/

/-- Settles O26, by what a completed command leaves; both keys are expanded as in O31. -/
theorem mnewCompletes : Obligations.MnewCompletes := by
  intro s
  have hs : Succeeds s (.mnew 32) := (succeeds_mnew 32).mpr rfl
  have hD : (completed s (.mnew 32)).rk .D = expand (firstOperand s) := by simp [updateSlots]
  have hT : (completed s (.mnew 32)).rk .T = expand (secondOperand s) := by simp [updateSlots]
  refine ⟨_, exec_of_succeeds hs, ?_, ?_, by simp [updateSlots], by simp [updateSlots], ⟨rfl, rfl⟩,
    completed_sameBytesBut hs, completed_sameRest s _⟩
  · rw [hD]
    exact isSchedule_expand _
  · rw [hT]
    exact isSchedule_expand _

/-- Settles O44: the formula is the definition; the mask comes off on both sides of the cipher call, which O38 undoes. -/
theorem xexDirectionsAreInverse : Obligations.XexDirectionsAreInverse :=
  fun rk _ _ hm hb => ⟨rfl, rfl, xex_opposite .enc rk hm hb, xex_opposite .dec rk hm hb⟩

/-- Settles O45, for one direction and its opposite. -/
theorem modeRoundTrip : Obligations.ModeRoundTrip :=
  fun rkD rkT twk _ _ hp => ⟨process_opposite .enc rkD rkT twk hp, process_opposite .dec rkD rkT twk hp⟩

/-- Settles O46, by what a completed command leaves; its result bytes are Process of the input. -/
theorem mencCompletes : Obligations.MencCompletes := by
  intro s len hD hT hge hle
  have hs : Succeeds s (.menc len) := (succeeds_menc len).mpr ⟨⟨hD, hT⟩, hge, hle⟩
  exact ⟨_, exec_of_succeeds hs, holdsModeOutput_of_process hge (memRead_completed_obuf hs), completed_frame hs rfl⟩

/-- Settles O47 as O46. -/
theorem mdecCompletes : Obligations.MdecCompletes := by
  intro s len hD hT hge hle
  have hs : Succeeds s (.mdec len) := (succeeds_mdec len).mpr ⟨⟨hD, hT⟩, hge, hle⟩
  exact ⟨_, exec_of_succeeds hs, holdsModeOutput_of_process hge (memRead_completed_obuf hs), completed_frame hs rfl⟩

/-- Settles O48: Process is a function of the operands, and both commands pass their checks in both states. -/
theorem modeResultDependsOnOperandsOnly : Obligations.ModeResultDependsOnOperandsOnly := by
  intro s s' len hD hT hD' hT' hge hle hle' hrkD hrkT htwk hibuf i hi
  have hok : (s.rkvD = true ∧ s.rkvT = true) ∧ 16 ≤ len ∧ len ≤ s.maxLen := ⟨⟨hD, hT⟩, hge, hle⟩
  have hok' : (s'.rkvD = true ∧ s'.rkvT = true) ∧ 16 ≤ len ∧ len ≤ s'.maxLen := ⟨⟨hD', hT'⟩, hge, hle'⟩
  have hresult : ∀ dir, process dir s'.rkD s'.rkT (tweakOperand s') (modeInput s' len) =
      process dir s.rkD s.rkT (tweakOperand s) (modeInput s len) := fun dir => by
    rw [hrkD, hrkT, tweakOperand, modeInput, htwk, hibuf]
    rfl
  suffices hboth : Succeeds s i ∧ Succeeds s' i ∧ resultBytes s' i = resultBytes s i ∧ resultLength i = len by
    obtain ⟨hs, hs', heq, rfl⟩ := hboth
    refine ⟨_, _, exec_of_succeeds hs, exec_of_succeeds hs', ?_⟩
    rw [memRead_completed_obuf hs', memRead_completed_obuf hs, heq]
  simp only [List.mem_cons, List.not_mem_nil, or_false] at hi
  obtain rfl | rfl := hi
  · exact ⟨(succeeds_menc len).mpr hok, (succeeds_menc len).mpr hok', hresult .enc, rfl⟩
  · exact ⟨(succeeds_mdec len).mpr hok, (succeeds_mdec len).mpr hok', hresult .dec, rfl⟩

/-- Settles O49: the run is MENC, the PUT of its result, MDEC with its GET; slots and tweak stay, so the second result is
Process undone. -/
theorem modeEncryptThenDecryptRun : Obligations.ModeEncryptThenDecryptRun := by
  intro s len rest hinv hD hT hge hle hm
  have hwf : len < 16777216 := lt_of_le_of_lt (hle.trans hinv.maxLen_le) (by decide)
  generalize hP : memRead s .ibuf 0 len = P at hm ⊢
  have hPlen : P.length = len := by rw [← hP, memRead_length]
  generalize hC : process .enc s.rkD s.rkT (memRead s .twk 0 16) P = C at hm
  have hClen : C.length = len := by rw [← hC, process_length _ _ _ _ _ (hPlen ▸ hge), hPlen]
  simp only [List.append_assoc] at hm
  have hs : Succeeds s (.menc len) := (succeeds_menc len).mpr ⟨⟨hD, hT⟩, hge, hle⟩
  obtain ⟨s₁, hstep, hslot₁, hbytes₁, hmax₁, -, hm₁, hans₁⟩ := step_command_frame (i := .menc len) hwf hs rfl hm
  obtain ⟨s₂, hrun₂, hmem₂, hbytes₂, hslot₂, -, -, hmax₂, -, hm₂, hans₂⟩ := putStoresItsBytes s₁ .ibuf 0 C _ (by decide)
    (by rw [hClen, Nat.zero_add]; exact hle.trans_eq hmax₁.symm) hm₁
  rw [hClen] at hrun₂ hmem₂
  have hrk₂ : ∀ sl, s₂.rk sl = s.rk sl := fun sl => (hslot₂ sl).1.trans (hslot₁ sl).1
  have hrkv₂ : ∀ sl, s₂.rkv sl = s.rkv sl := fun sl => (hslot₂ sl).2.trans (hslot₁ sl).2
  have htwk₂ : tweakOperand s₂ = memRead s .twk 0 16 :=
    memRead_eq fun k _ => (hbytes₂ .twk _ (by simp)).trans (hbytes₁ .twk _ (by simp))
  have hmax : s₂.maxLen = s.maxLen := hmax₂.trans hmax₁
  have hs₂ : Succeeds s₂ (.mdec len) :=
    (succeeds_mdec len).mpr ⟨⟨(hrkv₂ .D).trans hD, (hrkv₂ .T).trans hT⟩, hge, hmax ▸ hle⟩
  obtain ⟨s₃, hrun₃, hm₃, hans₃, -, -⟩ := run_command_get (i := .mdec len) hwf hs₂ rfl (hmax ▸ hle) hm₂
  have hresult : resultBytes s₂ (.mdec len) = P := by
    rw [resultBytes, htwk₂, modeInput, hmem₂, show s₂.rkD = s.rkD from hrk₂ .D, show s₂.rkT = s.rkT from hrk₂ .T, ← hC]
    exact process_opposite .enc s.rkD s.rkT _ (hPlen ▸ hge)
  refine ⟨s₃, ?_, hm₃, ?_⟩
  · calc Sys2Proof.core.run (2 * len + 2) s
      _ = Sys2Proof.core.run (len + (len + 1) + 1) s := by rw [show 2 * len + 2 = len + (len + 1) + 1 by omega]
      _ = Sys2Proof.core.run (len + (len + 1)) s₁ := core_run_succ hstep _
      _ = Sys2Proof.core.run (len + 1) s₂ := core_run_add (len + 1) hrun₂
      _ = .next s₃ := hrun₃
  · rw [hans₃, hans₂, hresult, setMoves_answers, hans₁, setMoves_answers]

end Sys2Proof.Machine
end

section
/-! PROOFS. Errors (60_exceptions.md): the first failing check of R135 is the one reported (R128 to R133), and a failed command
leaves its status and nothing else (R127, R136, R137). -/

namespace Sys2Proof.Machine

variable {s : State} {i : Instr} {e : ErrCode}

/-! ### A failing check, alone -/

/-- A command whose slots are present fails with the error of its length (R57, R135). -/
theorem exec_failsWith_lengthError (hs : SlotsPresent s i) (hl : LengthError s.maxLen i e) : FailsWith (exec i s) s e :=
  exec_of_failsCheck (.inr ⟨hs, hl⟩)

/-- What a command reports: the first check of R135 that fails, or no error. -/
theorem exec_reports (i : Instr) (s : State) : ∃ t, exec i s = .next t ∧
    (∀ e, FailsCheck s i e → t.err = e) ∧ (Succeeds s i → t.err = .none) := by
  obtain ⟨hs, heq⟩ | ⟨e, hf, heq⟩ := exec_cases i s
  · exact ⟨_, heq, fun e he => absurd hs he.not_succeeds, fun _ => rfl⟩
  · exact ⟨_, heq, fun e' he' => hf.unique he', fun hs => absurd hs hf.not_succeeds⟩

/-- A command word that leaves an error changed the status only (R127). -/
theorem runWord_eq_setStatus {t : State} {w : Word} (h : runWord w s = .next t) (ht : t.err ≠ .none) :
    t = s.setStatus t.err 0 := by
  obtain ⟨i, -, -, heq⟩ | ⟨-, e, -, heq⟩ := runWord_cases w s
  · cases heq.symm.trans h
    exact absurd rfl ht
  · cases heq.symm.trans h
    rfl

theorem exists_runWord_eq_next (w : Word) (s : State) : ∃ t, runWord w s = .next t := by
  obtain ⟨i, -, -, heq⟩ | ⟨-, e, -, heq⟩ := runWord_cases w s
  · exact ⟨_, heq⟩
  · exact ⟨_, heq⟩

/-! ### The obligations -/

/-- Settles O16: an illegal word raises before any check of a command, and of a command's checks at most one is the first to
fail; the examples are the slot check and then the length check of MENC 5. -/
theorem firstFailingCheckIsReported : Obligations.FirstFailingCheckIsReported := by
  refine ⟨fun s w => ?_, fun s hD _ => ?_, fun s hD hT => ?_⟩
  · cases hd : decode w with
    | ok i =>
      obtain ⟨t, heq, hfail, hok⟩ := exec_reports i s
      refine ⟨t, (runWord_ok hd s).trans heq, nofun, fun j hj => ?_⟩
      cases hj
      exact ⟨fun hs => hfail _ (.inl ⟨hs, rfl⟩), fun hs e hl => hfail e (.inr ⟨hs, hl⟩), hok⟩
    | error => exact ⟨_, runWord_error hd s, fun _ _ => rfl, nofun⟩
  · exact exec_failsWith_noKey (by simp [SlotsPresent, hD])
  · exact exec_failsWith_lengthError ⟨hD, hT⟩ (.inl ⟨by decide, rfl⟩)

/-- Settles O17: a completed command leaves no error, and the failing ones end by raising theirs. -/
theorem failedCommandChangesOnlyStatus : Obligations.FailedCommandChangesOnlyStatus := by
  refine ⟨fun s e => raise_eq e s, fun s w => ?_⟩
  obtain ⟨t, ht⟩ := exists_runWord_eq_next w s
  exact ⟨t, ht, runWord_eq_setStatus ht⟩

/-- Settles O18: the failed word left a status, and no command reads the status. -/
theorem failureLeavesNoTrace : Obligations.FailureLeavesNoTrace := by
  intro s t w h ht
  have hsame : ∀ v, runWord v t = runWord v s := fun v => by
    rw [runWord_eq_setStatus h ht]
    exact runWord_setStatus v s _ 0
  exact ⟨hsame, (hsame w).trans h⟩

/-- Settles O20: CNEW and MNEW need no slot, so their length is the one check left. -/
theorem keyLengthErrors : Obligations.KeyLengthErrors :=
  ⟨fun _ _ _ hn => exec_failsWith_lengthError trivial ⟨hn, rfl⟩, fun _ _ hn => exec_failsWith_lengthError trivial ⟨hn, rfl⟩⟩

/-- Settles O21: both slots are present, so the length decides, for MENC and MDEC by the same row of R57. -/
theorem modeLengthErrors : Obligations.ModeLengthErrors := by
  intro s n hD hT
  refine ⟨fun hlt => ?_, fun hge hgt => ?_⟩
  · have hshort : LengthError s.maxLen (.menc n) .inputTooShort := .inl ⟨hlt, rfl⟩
    exact ⟨exec_failsWith_lengthError ⟨hD, hT⟩ hshort, exec_failsWith_lengthError ⟨hD, hT⟩ hshort⟩
  · have hlong : LengthError s.maxLen (.menc n) .inputTooLong := .inr ⟨hge, hgt, rfl⟩
    exact ⟨exec_failsWith_lengthError ⟨hD, hT⟩ hlong, exec_failsWith_lengthError ⟨hD, hT⟩ hlong⟩

/-- Settles O22: the slot is present, so the length decides. -/
theorem blockLengthErrors : Obligations.BlockLengthErrors := fun _ _ _ hv hn =>
  ⟨exec_failsWith_lengthError hv ⟨hn, rfl⟩, exec_failsWith_lengthError hv ⟨hn, rfl⟩⟩

/-- Settles O23: the slot check comes before the length check. -/
theorem emptySlotFailsWithNoKey : Obligations.EmptySlotFailsWithNoKey := by
  refine ⟨fun s sl n hv => ?_, fun s n hv => ?_⟩
  · have hblock : ¬ s.rkv sl = true := by simp [hv]
    exact ⟨exec_failsWith_noKey hblock, exec_failsWith_noKey hblock⟩
  · have hmode : ¬ (s.rkvD = true ∧ s.rkvT = true) := by
      rintro ⟨hD, hT⟩
      simp [hD, hT] at hv
    exact ⟨exec_failsWith_noKey hmode, exec_failsWith_noKey hmode⟩

end Sys2Proof.Machine
end

section
/-! PROOFS. The idle machine and the frame of a host access (70_reset_and_hazards.md R147, R159, R161); what reset leaves (R145,
10_state.md R30). -/

namespace Sys2Proof.Machine

variable {s : State}

/-! ### The valid bits after reset (R145) -/

@[simp] theorem rkv_reset (sl : Slot) : State.reset.rkv sl = false := by cases sl <;> rfl

@[simp] theorem rkv_applyReset (s : State) (sl : Slot) : (applyReset s).rkv sl = false := by cases sl <;> rfl

/-! ### The control registers of an empty machine (R24, R25) -/

theorem statusWord_eq_zero (hempty : ∀ sl, s.rkv sl = false) (herr : s.err = .none) : statusWord s = 0 := by
  have hD : s.rkvD = false := hempty .D
  have hT : s.rkvT = false := hempty .T
  rw [statusWord_eq_append, hD, hT, herr]
  rfl

theorem olenWord_eq_zero (holen : s.olen = 0) : olenWord s = 0 := by
  rw [olenWord, holen]
  rfl

/-! ### The obligations -/

/-- Settles O7: an access without a command only answers or writes one byte of TWK or IBUF. -/
theorem onlyCommandsAndResetDoWork : Obligations.OnlyCommandsAndResetDoWork := by
  refine ⟨fun s hidle => by rw [step, hidle], fun s t mv rest hm hr hc ht => ?_⟩
  rw [step_eq_makeMove hm] at ht
  obtain rfl | ⟨a, rfl⟩ | ⟨sp, off, b, hsp, rfl⟩ := makeMove_access_cases hr hc ht
  · simp [SameSlots]
  · simp [SameSlots]
  · simp [SameSlots, hsp]

/-- Settles O55: power-on and a reset move both clear the valid bits, ERR and OLEN, and the registers show nothing else. -/
theorem resetEmptiesSlots : Obligations.ResetEmptiesSlots := by
  refine ⟨rkv_reset, rfl, rfl, statusWord_eq_zero rkv_reset rfl, olenWord_eq_zero rfl, fun s rest hm => ?_⟩
  have hempty : ∀ sl, (applyReset (s.setMoves rest)).rkv sl = false := rkv_applyReset _
  exact ⟨_, step_eq_makeMove hm, hempty, rfl, rfl, statusWord_eq_zero hempty rfl, olenWord_eq_zero rfl, rfl⟩

end Sys2Proof.Machine
end

section
/-! PROOFS. The words of the spec's decoding table (95_test_vectors.md section 7): the legal ones are encodings, and decoding takes
an encoding back to its command. -/

namespace Sys2Proof.Machine

/-- Settles O5: eleven words are the encodings of well-formed commands, and each of the other four fails one check of R59. -/
theorem specWordsDecode : Obligations.SpecWordsDecode := by
  have legal {i : Instr} {w : Word} (hw : encode i = w) (hi : i.WellFormed) : decode w = .ok i := hw ▸ decodeOfEncode i hi
  refine ⟨legal rfl ?_, legal rfl ?_, legal rfl ?_, legal rfl ?_, legal rfl ?_, legal rfl ?_, legal rfl ?_, legal rfl ?_,
    legal rfl ?_, legal rfl ?_, legal rfl ?_, ?reservedBits, ?slotNotZero, ?lenNotZero, ?unassignedOp⟩
  case reservedBits | slotNotZero | lenNotZero | unassignedOp => rfl
  all_goals decide

end Sys2Proof.Machine
end
